-- ==== Sys2Proof/Word.lean ====
section
/-! DEFINITION. The PRAU's plain value types (`00_scope.md` R7, R9, `10_state.md` R22, R23): words, bytes,
binary64 patterns, lanes, register indices, bus offsets and domain tags. -/

namespace Sys2Proof

/-- A byte of the buffer `BB` (R36). -/
abbrev Byte := BitVec 8

/-- A *word* is 32 bits (R7). -/
abbrev Word := BitVec 32

/-- An IEEE 754 binary64 bit pattern: sign bit 63, exponent bits 62:52, fraction bits 51:0 (R9). -/
abbrev F64 := BitVec 64

/-- A lane: a 128-bit cell `w[3] ‖ w[2] ‖ w[1] ‖ w[0]` (R22). -/
abbrev Lane := BitVec 128

/-- The index of a polynomial register `P0` to `P7` (R21). -/
abbrev Reg := Fin 8

/-- A byte offset from `BASE` in the 256 KiB register space (R37). -/
abbrev Offset := BitVec 18

/-- The domain tags of R23, in the order of their codes 0 to 6 (codes 7 to 15 never occur). -/
inductive Tag where
  /-- 0 `E`: nothing has been written since reset or since the last `CFG`. -/
  | e
  /-- 1 `Z`: signed integer coefficients. -/
  | z
  /-- 2 `Q`: coefficients in `[0, Q)`. -/
  | q
  /-- 3 `N`: NTT values in `[0, Q)`. -/
  | n
  /-- 4 `R`: real binary64 coefficients. -/
  | r
  /-- 5 `F`: complex binary64 FFT values. -/
  | f
  /-- 6 `RAW`: words written by the host and not yet typed. -/
  | raw
deriving DecidableEq, Repr

/-- The code of a tag (R23). -/
def Tag.code : Tag → Nat
  | .e => 0
  | .z => 1
  | .q => 2
  | .n => 3
  | .r => 4
  | .f => 5
  | .raw => 6

/-- `Z`, `Q`, `N`, `R` and `F` say how the lanes are to be read; `E` and `RAW` do not. -/
def Tag.typed : Tag → Bool
  | .e => false
  | .z => true
  | .q => true
  | .n => true
  | .r => true
  | .f => true
  | .raw => false

end Sys2Proof
end

