-- ==== Sys2Proof/Machine/Fp.lean ====
section
/-! DEFINITION. IEEE 754 binary64 as `42_ring_float.md` R130 to R132 and R143 use it (log 18). A finite pattern is an integer
multiple of 2^-1074; sums and products are computed exactly on those integers and rounded once. -/

namespace Sys2Proof.Machine

/-- Bit 63. -/
def fpSign (x : F64) : Bool := x.getLsbD 63

/-- Bits 62:52. -/
def fpExp (x : F64) : Nat := (x.extractLsb' 52 11).toNat

/-- Bits 51:0. -/
def fpFrac (x : F64) : Nat := (x.extractLsb' 0 52).toNat

/-- The pattern is a NaN. -/
def isNan (x : F64) : Bool := fpExp x == 2047 && fpFrac x != 0

/-- The pattern is an infinity. -/
def isInf (x : F64) : Bool := fpExp x == 2047 && fpFrac x == 0

/-- The pattern stands for a real number. -/
def isFinite (x : F64) : Bool := fpExp x != 2047

/-- `|val(x)| · 2^1074` for a finite `x`. -/
def magnitude (x : F64) : Nat :=
  if fpExp x = 0 then fpFrac x else (2 ^ 52 + fpFrac x) * 2 ^ (fpExp x - 1)

/-- `val(x) · 2^1074` for a finite `x`. -/
def scaled (x : F64) : Int := if fpSign x then -(magnitude x : Int) else magnitude x

/-- `m / 2^d` rounded to the nearest integer, ties to even (R9, R143). -/
def roundShift (m d : Nat) : Nat :=
  let q := m / 2 ^ d
  let r := 2 * (m % 2 ^ d)
  if r < 2 ^ d then q else if 2 ^ d < r then q + 1 else q + q % 2

/-- The exponent and fraction bits of plus infinity. -/
def infBits : Nat := 2047 * 2 ^ 52

/-- A pattern from its sign and its lower 63 bits. -/
def withSign (neg : Bool) (low : Nat) : F64 := BitVec.ofNat 64 (low + if neg then 2 ^ 63 else 0)

/-- `fl` of the magnitude `m · 2^(−1074−sh)` with the given sign: 53 significant bits, or a multiple of 2^-1074 below the
normal range; an exponent out of range gives infinity (R9, R131). -/
def roundTo64 (neg : Bool) (m sh : Nat) : F64 :=
  let d := max (Nat.log2 m - 52) sh
  withSign neg (min ((d - sh) * 2 ^ 52 + roundShift m d) infBits)

/-- The NaN pattern with the given sign and fraction bits; a zero fraction would be an infinity, so it stands for 1. Every
NaN pattern is the image of some bits. -/
def nanOf (bits : BitVec 53) : F64 :=
  let frac := (bits.extractLsb' 0 52).toNat
  withSign (bits.getLsbD 52) (infBits + if frac = 0 then 1 else frac)

/-- `fneg` flips bit 63 and changes nothing else, for every pattern (R131). -/
def fneg (x : F64) : F64 := x ^^^ (1#64 <<< 63)

/-- `fadd` (R131); `nan` is the pattern used where the result is a NaN. -/
def fadd (nan a b : F64) : F64 :=
  if isNan a || isNan b then nan
  else if isInf a then (if isInf b && fpSign a != fpSign b then nan else a)
  else if isInf b then b
  else
    let t := scaled a + scaled b
    if t = 0 then withSign (fpSign a && fpSign b) 0 else roundTo64 (decide (t < 0)) t.natAbs 0

/-- `fsub` (R131): `a − b` is `a + (−b)`. -/
def fsub (nan a b : F64) : F64 := fadd nan a (fneg b)

/-- `fmul` (R131). -/
def fmul (nan a b : F64) : F64 :=
  let neg := fpSign a != fpSign b
  if isNan a || isNan b then nan
  else if isInf a || isInf b then
    (if magnitude a = 0 || magnitude b = 0 then nan else withSign neg infBits)
  else if magnitude a * magnitude b = 0 then withSign neg 0
  else roundTo64 neg (magnitude a * magnitude b) 1074

/-- `i2f` (R132): exact for `|x| ≤ 2^31`. -/
def i2f (x : Int) : F64 :=
  if x = 0 then 0 else roundTo64 (decide (x < 0)) (x.natAbs * 2 ^ 1074) 0

/-- `fround` (R143): the nearest integer, ties to even; none for a NaN or an infinity. -/
def fround (x : F64) : Option Int :=
  if isFinite x then
    let m := roundShift (magnitude x) 1074
    some (if fpSign x then -(m : Int) else m)
  else none

/-- `val(a) ≤ val(b)` for finite patterns. -/
def fle (a b : F64) : Bool := decide (scaled a ≤ scaled b)

end Sys2Proof.Machine
end

