-- ==== Sys2Proof/Config.lean ====
section
/-! DEFINITION. What is fixed when the hardware is built (`00_scope.md` R5, `10_state.md` R40): a `Configuration`, which the
machine takes as an argument; the one of this hardware; and the free values: opaque constants without a body, so that
nothing can be proved of the value they have. -/

namespace Sys2Proof

/-- The numeric parameters of R5. Every operation that depends on them takes a `Params`, so that a law can be stated
for every admissible configuration (`92_eei_decisions.md` D1). -/
structure Params where
  /-- The prime modulus `Q`. -/
  q : Nat
  /-- `PSI`, a primitive 2048-th root of unity modulo `Q`. -/
  psi : Nat
  /-- `LOW_BITS`, the width of the codec's low field. -/
  lowBits : Nat
  /-- `RUN_BIT`, the bit repeated in the codec's unary field. -/
  runBit : Bool
deriving DecidableEq, Repr

/-- The constraints R5 puts on a configuration. -/
structure Params.WF (p : Params) : Prop where
  prime : p.q.Prime
  small : p.q ≤ 65536
  split : p.q % 2048 = 1
  root : p.psi ^ 1024 % p.q = p.q - 1
  lowPos : 1 ≤ p.lowBits
  lowMax : p.lowBits ≤ 15

/-- The numerics record `NUM` of R5. Sum, difference and product take first the NaN pattern that the draw of
`42_ring_float.md` R131 offers for their result. -/
structure Numerics where
  /-- `fadd` (R131): the drawn pattern, the operands. -/
  fadd : F64 → F64 → F64 → F64
  /-- `fsub` (R131). -/
  fsub : F64 → F64 → F64 → F64
  /-- `fmul` (R131). -/
  fmul : F64 → F64 → F64 → F64
  /-- `fneg` (R131). -/
  fneg : F64 → F64
  /-- `i2f` (R132). -/
  i2f : Int → F64
  /-- `fround` (R143); none for a NaN or an infinity. -/
  fround : F64 → Option Int
  /-- `fft_hw_n` (R134): `LOGN`, the `n` real inputs, the output lane; a function of its input lanes alone. -/
  fft : Nat → List F64 → Nat → F64 × F64
  /-- `ifft_hw_n` (R134): `LOGN`, the `n` complex inputs, the output lane. -/
  ifft : Nat → List (F64 × F64) → Nat → F64

/-- What R131, R132 and R143 say of the elementary operations of `NUM`: the binary64 result, where that is a NaN any NaN
pattern. Of the transforms nothing is said (R134). -/
structure Numerics.WF (num : Numerics) : Prop where
  fadd : ∀ nan a b, Machine.isNan nan → ∃ nan', Machine.isNan nan' ∧ num.fadd nan a b = Machine.fadd nan' a b
  fsub : ∀ nan a b, Machine.isNan nan → ∃ nan', Machine.isNan nan' ∧ num.fsub nan a b = Machine.fsub nan' a b
  fmul : ∀ nan a b, Machine.isNan nan → ∃ nan', Machine.isNan nan' ∧ num.fmul nan a b = Machine.fmul nan' a b
  fneg : ∀ a, num.fneg a = Machine.fneg a
  i2f : ∀ x : Int, |x| ≤ 2 ^ 31 → num.i2f x = Machine.i2f x
  fround : ∀ a, num.fround a = Machine.fround a

/-- What one attempt of the leaf sampler does once it has been given a byte (`43_sampler_leaf.md` R162): it ends with a
verdict, or it asks for one more byte. A value of this type is an attempt that always ends and that depends on nothing
but the bytes it takes, which is R162's laws (1) to (3). -/
inductive LeafStep where
  /-- `Accept z`. -/
  | accept (z : Int)
  /-- `Reject`. -/
  | reject
  /-- The attempt takes another byte. -/
  | more (next : Byte → LeafStep)
deriving Inhabited

/-- Everything that is fixed when the hardware is built (R5, R40). The step function takes it as an argument. -/
structure Configuration where
  /-- `Q`, `PSI`, `LOW_BITS`, `RUN_BIT`. -/
  params : Params
  /-- `NUM`. -/
  num : Numerics
  /-- `LeafAttempt` (`43_sampler_leaf.md` R162): `mu`, `s`, and what the attempt does with its first byte. -/
  leafAttempt : F64 → F64 → Byte → LeafStep
  /-- `BASE`: the byte address of the register space on the host bus. -/
  base : Nat

/-- The well-formedness of a configuration (R5). `LeafAttempt` has its laws by its type; `BASE` has none. -/
structure Configuration.WF (cfg : Configuration) : Prop where
  params : cfg.params.WF
  num : cfg.num.WF

/-! This hardware. -/

/-- The values of `Q`, `PSI`, `LOW_BITS` and `RUN_BIT` (R5; log 11). -/
def Config.hw : Params := { q := 12289, psi := 7, lowBits := 7, runBit := true }

/-- FREE: the hardware's `fft_hw` (R134, R145, U3, U4; log 6). -/
opaque Config.fftHw : Nat → List F64 → Nat → F64 × F64

/-- FREE: the hardware's `ifft_hw` (R134, R145, U3, U4; log 6). -/
opaque Config.ifftHw : Nat → List (F64 × F64) → Nat → F64

/-- The hardware's `NUM`: binary64 arithmetic (log 18) and the open transforms. -/
def Config.num : Numerics where
  fadd := Machine.fadd
  fsub := Machine.fsub
  fmul := Machine.fmul
  fneg := Machine.fneg
  i2f := Machine.i2f
  fround := Machine.fround
  fft := Config.fftHw
  ifft := Config.ifftHw

/-- FREE: the hardware's `LeafAttempt` (R162, U5; log 7). An attempt takes at least one byte, so it starts as a function of
it. -/
opaque Config.leafAttempt : F64 → F64 → Byte → LeafStep

/-- FREE: where the platform puts the register space (R5, R50; log 12). -/
opaque Config.base : Nat

/-- The configuration of this hardware. -/
def Config.prau : Configuration :=
  { params := Config.hw, num := Config.num, leafAttempt := Config.leafAttempt, base := Config.base }

/-! The world around it. -/

/-- FREE: the RNG stream, an oracle from position to byte, fixed for a run (`10_state.md` R38, U6; log 8). -/
opaque Config.rngByte : Nat → Byte

/-- FREE: how many bytes the RNG port can deliver during step number `t`; any number, also never any again
(`70_reset_and_hazards.md` R241, U7; log 9). -/
opaque Config.rngDelivers : Nat → Nat

/-- FREE: what a byte of `BB` or of a lane that nothing has written since reset reads as, at step `t` and byte offset
`a` (`20_memory.md` R62, U1; log 3). -/
opaque Config.unwritten : Nat → Nat → Byte

/-- FREE: sign and fraction of the NaN that operation number `slot` on lane `j` produces at step `t`
(`42_ring_float.md` R131, U2; log 5). -/
opaque Config.nanBits : Nat → Nat → Nat → BitVec 53

end Sys2Proof
end

