-- ==== Sys2Proof/Machine/Bitstream.lean ====
section
/-! DEFINITION. The codec of `44_codec.md` on plain lists: the code of a coefficient (R180), packing (R181), `compress`
(R183) and `decompress` (R185). A bit is a `Bool`, `true` for 1. -/

namespace Sys2Proof.Machine

/-- The `w` bits of `v`, most significant first. -/
def msbBits : Nat → Nat → List Bool
  | 0, _ => []
  | w + 1, v => v.testBit w :: msbBits w v

/-- The number a list of bits stands for, most significant first, continuing from `acc`. -/
def ofMsbBits (acc : Nat) : List Bool → Nat
  | [] => acc
  | b :: bs => ofMsbBits (2 * acc + b.toNat) bs

/-- `code(c)`: sign bit, low field, unary high field with its terminator (R180). -/
def code (p : Params) (c : Int) : List Bool :=
  decide (c < 0) :: (msbBits p.lowBits (c.natAbs % 2 ^ p.lowBits)
    ++ List.replicate (c.natAbs / 2 ^ p.lowBits) p.runBit ++ [!p.runBit])

/-- `len(c) = 2 + LOW_BITS + hi` (R180). -/
def codeLen (p : Params) (c : Int) : Nat := 2 + p.lowBits + c.natAbs / 2 ^ p.lowBits

/-- The bytes of a bitstream of `8·L` bits: the first bit is the most significant bit of the first byte (R181). -/
def packBytes : Nat → List Bool → List Byte
  | 0, _ => []
  | L + 1, bits => BitVec.ofNat 8 (ofMsbBits 0 (bits.take 8)) :: packBytes L (bits.drop 8)

/-- The bits of a run of bytes, in stream order (R181). -/
def bitsOf (bs : List Byte) : List Bool := bs.flatMap fun b => msbBits 8 b.toNat

/-- `compress(p, L)` (R183): `none` is `Overflow`. The total length is compared before any bit is written. -/
def compress (p : Params) (cs : List Int) (L : Nat) : Option (List Byte) :=
  let total := (cs.map (codeLen p)).sum
  if 8 * L < total then none
  else some (packBytes L (cs.flatMap (code p) ++ List.replicate (8 * L - total) false))

/-- A unary run: the number of `run` bits before the terminator, and the bits after it; `none` if the stream ends first. -/
def readRun (run : Bool) : List Bool → Option (Nat × List Bool)
  | [] => none
  | b :: bs => if b = run then (readRun run bs).map fun (h, rest) => (h + 1, rest) else some (0, bs)

/-- One coefficient of R185 and the bits after it; `none` is `Malformed`. -/
def readCoeff (p : Params) (bits : List Bool) : Option (Int × List Bool) :=
  match bits with
  | [] => none
  | sg :: rest =>
    if rest.length < p.lowBits then none
    else
      match readRun p.runBit (rest.drop p.lowBits) with
      | none => none
      | some (hi, rest') =>
        let m := hi * 2 ^ p.lowBits + ofMsbBits 0 (rest.take p.lowBits)
        if sg && m == 0 then none else some (if sg then -(m : Int) else m, rest')

/-- The `n` coefficients of R185 and the bits after them. -/
def readCoeffs (p : Params) : Nat → List Bool → Option (List Int × List Bool)
  | 0, bits => some ([], bits)
  | n + 1, bits =>
    match readCoeff p bits with
    | none => none
    | some (c, rest) => (readCoeffs p n rest).map fun (cs, rest') => (c :: cs, rest')

/-- `decompress(B, L, n)` of the `L` bytes `bs` (R185): `none` is `Malformed`; the bits after the last code must be 0. -/
def decompress (p : Params) (bs : List Byte) (n : Nat) : Option (List Int) :=
  match readCoeffs p n (bitsOf bs) with
  | none => none
  | some (cs, padding) => if padding.any id then none else some cs

end Sys2Proof.Machine
end

