-- ==== Sys2Proof/Syntax.lean ====
section
/-! DEFINITION. The 25 commands of `30_encoding.md` R76, one constructor per row of the opcode table. -/

namespace Sys2Proof

/-- The commands (R76), with the operands their format uses (R71, R72, R73). -/
inductive Instr where
  /-- `NOP` (R91). -/
  | nop
  /-- `CFG imm` (R92). -/
  | cfg (imm : BitVec 12)
  /-- `TAG Pd, t` (R93). -/
  | tag (rd : Reg) (t : Tag)
  /-- `MOV Pd, Ps1` (R94). -/
  | mov (rd rs1 : Reg)
  /-- `NTT Pd, Ps1` (R103). -/
  | ntt (rd rs1 : Reg)
  /-- `INTT Pd, Ps1` (R104). -/
  | intt (rd rs1 : Reg)
  /-- `ADDQ Pd, Ps1, Ps2` (R106). -/
  | addq (rd rs1 rs2 : Reg)
  /-- `SUBQ Pd, Ps1, Ps2` (R107). -/
  | subq (rd rs1 rs2 : Reg)
  /-- `NEGQ Pd, Ps1` (R108). -/
  | negq (rd rs1 : Reg)
  /-- `MULN Pd, Ps1, Ps2` (R109). -/
  | muln (rd rs1 rs2 : Reg)
  /-- `DIVN Pd, Ps1, Ps2` (R110). -/
  | divn (rd rs1 rs2 : Reg)
  /-- `MULQ Pd, Ps1, Ps2` (R111). -/
  | mulq (rd rs1 rs2 : Reg)
  /-- `DIVQ Pd, Ps1, Ps2` (R112). -/
  | divq (rd rs1 rs2 : Reg)
  /-- `REDUCE Pd, Ps1` (R113). -/
  | reduce (rd rs1 : Reg)
  /-- `CENTER Pd, Ps1` (R114). -/
  | center (rd rs1 : Reg)
  /-- `FFT Pd, Ps1` (R137). -/
  | fft (rd rs1 : Reg)
  /-- `IFFT Pd, Ps1` (R138). -/
  | ifft (rd rs1 : Reg)
  /-- `ADDF Pd, Ps1, Ps2` (R139). -/
  | addf (rd rs1 rs2 : Reg)
  /-- `SUBF Pd, Ps1, Ps2` (R140). -/
  | subf (rd rs1 rs2 : Reg)
  /-- `NEGF Pd, Ps1` (R141). -/
  | negf (rd rs1 : Reg)
  /-- `MULF Pd, Ps1, Ps2` (R142). -/
  | mulf (rd rs1 rs2 : Reg)
  /-- `ROUND Pd, Ps1` (R143). -/
  | round (rd rs1 : Reg)
  /-- `SAMPLEZ` (R163). -/
  | samplez
  /-- `COMPRESS Ps1, imm` (R184). -/
  | compress (rs1 : Reg) (imm : BitVec 12)
  /-- `DECOMPRESS Pd, imm` (R187). -/
  | decompress (rd : Reg) (imm : BitVec 12)
deriving DecidableEq, Repr

end Sys2Proof
end

