-- ==== Sys2Proof/WellFormed.lean ====
section
/-! DEFINITION. Which commands have a word (`30_encoding.md` R72, R73). Register indices 0 to 7 and 12-bit immediates are
bounded by their types; the tag code is the one operand with a check of its own. -/

namespace Sys2Proof

/-- A command is well formed when its word is legal: `TAG` sets `Z`, `Q`, `N`, `R` or `F` (codes 1 to 5, R73). -/
def WellFormed : Instr → Bool
  | .nop => true
  | .cfg _ => true
  | .tag _ t => t.typed
  | .mov _ _ => true
  | .ntt _ _ => true
  | .intt _ _ => true
  | .addq _ _ _ => true
  | .subq _ _ _ => true
  | .negq _ _ => true
  | .muln _ _ _ => true
  | .divn _ _ _ => true
  | .mulq _ _ _ => true
  | .divq _ _ _ => true
  | .reduce _ _ => true
  | .center _ _ => true
  | .fft _ _ => true
  | .ifft _ _ => true
  | .addf _ _ _ => true
  | .subf _ _ _ => true
  | .negf _ _ => true
  | .mulf _ _ _ => true
  | .round _ _ => true
  | .samplez => true
  | .compress _ _ => true
  | .decompress _ _ => true

end Sys2Proof
end

