-- ==== Sys2Proof/Decode.lean ====
section
/-! DEFINITION. The command word: fields, decoder, encoder (`30_encoding.md` R70 to R80). Decoding is total on every
32-bit word and reads no state (R80); a word that is no command is rejected by the reason it is illegal (R77). -/

namespace Sys2Proof

/-- Why a word is illegal (R77). -/
inductive Illegal where
  /-- The `op` field is not in the table. -/
  | unassignedOp
  /-- A field the format does not use is not zero. -/
  | nonZeroField
  /-- A used register field is 8 to 15. -/
  | badRegister
  /-- `TAG` with a tag code outside 1 to 5. -/
  | badTagCode
deriving DecidableEq, Repr

/-- Bits 31:24 (R70). -/
def opField (w : Word) : Nat := (w.extractLsb' 24 8).toNat

/-- Bits 23:20 (R70). -/
def rdField (w : Word) : Nat := (w.extractLsb' 20 4).toNat

/-- Bits 19:16 (R70). -/
def rs1Field (w : Word) : Nat := (w.extractLsb' 16 4).toNat

/-- Bits 15:12 (R70). -/
def rs2Field (w : Word) : Nat := (w.extractLsb' 12 4).toNat

/-- Bits 11:0, unsigned (R70, R72). -/
def immField (w : Word) : BitVec 12 := w.extractLsb' 0 12

/-- A used register field: only 0 to 7 name a register (R72). -/
def regOf (f : Nat) : Except Illegal Reg :=
  if h : f < 8 then .ok ⟨f, h⟩ else .error .badRegister

/-- The tag `TAG`'s immediate names: codes 1 to 5 (R73). -/
def tagOf (imm : BitVec 12) : Except Illegal Tag :=
  match imm.toNat with
  | 1 => .ok .z
  | 2 => .ok .q
  | 3 => .ok .n
  | 4 => .ok .r
  | 5 => .ok .f
  | _ => .error .badTagCode

/-- The must-be-zero fields of a format (R71). -/
def mustBeZero (fields : List Nat) : Except Illegal Unit :=
  if fields.all (· == 0) then .ok () else .error .nonZeroField

/-- Format `N`: nothing but `op`. -/
def formatN (w : Word) (i : Instr) : Except Illegal Instr := do
  mustBeZero [rdField w, rs1Field w, rs2Field w, (immField w).toNat]
  return i

/-- Format `I`: `imm`. -/
def formatI (w : Word) (mk : BitVec 12 → Instr) : Except Illegal Instr := do
  mustBeZero [rdField w, rs1Field w, rs2Field w]
  return mk (immField w)

/-- Format `DI`: `rd`, `imm`. -/
def formatDI (w : Word) (mk : Reg → BitVec 12 → Except Illegal Instr) : Except Illegal Instr := do
  mustBeZero [rs1Field w, rs2Field w]
  let rd ← regOf (rdField w)
  mk rd (immField w)

/-- Format `SI`: `rs1`, `imm`. -/
def formatSI (w : Word) (mk : Reg → BitVec 12 → Instr) : Except Illegal Instr := do
  mustBeZero [rdField w, rs2Field w]
  let rs1 ← regOf (rs1Field w)
  return mk rs1 (immField w)

/-- Format `DS`: `rd`, `rs1`. -/
def formatDS (w : Word) (mk : Reg → Reg → Instr) : Except Illegal Instr := do
  mustBeZero [rs2Field w, (immField w).toNat]
  let rd ← regOf (rdField w)
  let rs1 ← regOf (rs1Field w)
  return mk rd rs1

/-- Format `DSS`: `rd`, `rs1`, `rs2`. -/
def formatDSS (w : Word) (mk : Reg → Reg → Reg → Instr) : Except Illegal Instr := do
  mustBeZero [(immField w).toNat]
  let rd ← regOf (rdField w)
  let rs1 ← regOf (rs1Field w)
  let rs2 ← regOf (rs2Field w)
  return mk rd rs1 rs2

/-- The decoder: the table of R76. -/
def decode (w : Word) : Except Illegal Instr :=
  match opField w with
  | 0x00 => formatN w .nop
  | 0x01 => formatI w .cfg
  | 0x02 => formatDI w fun rd imm => do return .tag rd (← tagOf imm)
  | 0x03 => formatDS w .mov
  | 0x10 => formatDS w .ntt
  | 0x11 => formatDS w .intt
  | 0x12 => formatDSS w .addq
  | 0x13 => formatDSS w .subq
  | 0x14 => formatDS w .negq
  | 0x15 => formatDSS w .muln
  | 0x16 => formatDSS w .divn
  | 0x17 => formatDSS w .mulq
  | 0x18 => formatDSS w .divq
  | 0x19 => formatDS w .reduce
  | 0x1A => formatDS w .center
  | 0x20 => formatDS w .fft
  | 0x21 => formatDS w .ifft
  | 0x22 => formatDSS w .addf
  | 0x23 => formatDSS w .subf
  | 0x24 => formatDS w .negf
  | 0x25 => formatDSS w .mulf
  | 0x26 => formatDS w .round
  | 0x30 => formatN w .samplez
  | 0x40 => formatSI w .compress
  | 0x41 => formatDI w fun rd imm => .ok (.decompress rd imm)
  | _ => .error .unassignedOp

/-- The host's question about a row of the opcode table: the word is 32 bits, least significant bit first. -/
def decodeTableWord (_nbits w : Nat) : Option Instr :=
  (decode (BitVec.ofNat 32 w)).toOption

/-- The word with the given fields (R70). -/
def wordOf (op rd rs1 rs2 imm : Nat) : Word :=
  BitVec.ofNat 32 (op * 2 ^ 24 + rd * 2 ^ 20 + rs1 * 2 ^ 16 + rs2 * 2 ^ 12 + imm)

/-- The `op` number of a command (R76). -/
def opcodeOf : Instr → Nat
  | .nop => 0x00
  | .cfg _ => 0x01
  | .tag _ _ => 0x02
  | .mov _ _ => 0x03
  | .ntt _ _ => 0x10
  | .intt _ _ => 0x11
  | .addq _ _ _ => 0x12
  | .subq _ _ _ => 0x13
  | .negq _ _ => 0x14
  | .muln _ _ _ => 0x15
  | .divn _ _ _ => 0x16
  | .mulq _ _ _ => 0x17
  | .divq _ _ _ => 0x18
  | .reduce _ _ => 0x19
  | .center _ _ => 0x1A
  | .fft _ _ => 0x20
  | .ifft _ _ => 0x21
  | .addf _ _ _ => 0x22
  | .subf _ _ _ => 0x23
  | .negf _ _ => 0x24
  | .mulf _ _ _ => 0x25
  | .round _ _ => 0x26
  | .samplez => 0x30
  | .compress _ _ => 0x40
  | .decompress _ _ => 0x41

/-- The encoder: the words of R70, R71 and R76. The word of an ill-formed `TAG` carries the code of its tag, which R77
makes an illegal word. -/
def encode (i : Instr) : Word :=
  match i with
  | .nop => wordOf (opcodeOf i) 0 0 0 0
  | .cfg imm => wordOf (opcodeOf i) 0 0 0 imm.toNat
  | .tag rd t => wordOf (opcodeOf i) rd 0 0 t.code
  | .mov rd rs1 => wordOf (opcodeOf i) rd rs1 0 0
  | .ntt rd rs1 => wordOf (opcodeOf i) rd rs1 0 0
  | .intt rd rs1 => wordOf (opcodeOf i) rd rs1 0 0
  | .addq rd rs1 rs2 => wordOf (opcodeOf i) rd rs1 rs2 0
  | .subq rd rs1 rs2 => wordOf (opcodeOf i) rd rs1 rs2 0
  | .negq rd rs1 => wordOf (opcodeOf i) rd rs1 0 0
  | .muln rd rs1 rs2 => wordOf (opcodeOf i) rd rs1 rs2 0
  | .divn rd rs1 rs2 => wordOf (opcodeOf i) rd rs1 rs2 0
  | .mulq rd rs1 rs2 => wordOf (opcodeOf i) rd rs1 rs2 0
  | .divq rd rs1 rs2 => wordOf (opcodeOf i) rd rs1 rs2 0
  | .reduce rd rs1 => wordOf (opcodeOf i) rd rs1 0 0
  | .center rd rs1 => wordOf (opcodeOf i) rd rs1 0 0
  | .fft rd rs1 => wordOf (opcodeOf i) rd rs1 0 0
  | .ifft rd rs1 => wordOf (opcodeOf i) rd rs1 0 0
  | .addf rd rs1 rs2 => wordOf (opcodeOf i) rd rs1 rs2 0
  | .subf rd rs1 rs2 => wordOf (opcodeOf i) rd rs1 rs2 0
  | .negf rd rs1 => wordOf (opcodeOf i) rd rs1 0 0
  | .mulf rd rs1 rs2 => wordOf (opcodeOf i) rd rs1 rs2 0
  | .round rd rs1 => wordOf (opcodeOf i) rd rs1 0 0
  | .samplez => wordOf (opcodeOf i) 0 0 0 0
  | .compress rs1 imm => wordOf (opcodeOf i) 0 rs1 0 imm.toNat
  | .decompress rd imm => wordOf (opcodeOf i) rd 0 0 imm.toNat

/-- A register in a command's text (R81). -/
def regText (r : Reg) : String := "P" ++ toString r.val

/-- A tag in a command's text (R81); `E` and `RAW` stand in no legal command. -/
def tagText : Tag → String
  | .e => "E"
  | .z => "Z"
  | .q => "Q"
  | .n => "N"
  | .r => "R"
  | .f => "F"
  | .raw => "RAW"

/-- The mnemonic and the operands of a command's text (R81), the immediate in decimal. -/
def assembly : Instr → String
  | .nop => "NOP"
  | .cfg imm => "CFG " ++ toString imm.toNat
  | .tag rd t => "TAG " ++ regText rd ++ ", " ++ tagText t
  | .mov rd rs1 => "MOV " ++ regText rd ++ ", " ++ regText rs1
  | .ntt rd rs1 => "NTT " ++ regText rd ++ ", " ++ regText rs1
  | .intt rd rs1 => "INTT " ++ regText rd ++ ", " ++ regText rs1
  | .addq rd rs1 rs2 => "ADDQ " ++ regText rd ++ ", " ++ regText rs1 ++ ", " ++ regText rs2
  | .subq rd rs1 rs2 => "SUBQ " ++ regText rd ++ ", " ++ regText rs1 ++ ", " ++ regText rs2
  | .negq rd rs1 => "NEGQ " ++ regText rd ++ ", " ++ regText rs1
  | .muln rd rs1 rs2 => "MULN " ++ regText rd ++ ", " ++ regText rs1 ++ ", " ++ regText rs2
  | .divn rd rs1 rs2 => "DIVN " ++ regText rd ++ ", " ++ regText rs1 ++ ", " ++ regText rs2
  | .mulq rd rs1 rs2 => "MULQ " ++ regText rd ++ ", " ++ regText rs1 ++ ", " ++ regText rs2
  | .divq rd rs1 rs2 => "DIVQ " ++ regText rd ++ ", " ++ regText rs1 ++ ", " ++ regText rs2
  | .reduce rd rs1 => "REDUCE " ++ regText rd ++ ", " ++ regText rs1
  | .center rd rs1 => "CENTER " ++ regText rd ++ ", " ++ regText rs1
  | .fft rd rs1 => "FFT " ++ regText rd ++ ", " ++ regText rs1
  | .ifft rd rs1 => "IFFT " ++ regText rd ++ ", " ++ regText rs1
  | .addf rd rs1 rs2 => "ADDF " ++ regText rd ++ ", " ++ regText rs1 ++ ", " ++ regText rs2
  | .subf rd rs1 rs2 => "SUBF " ++ regText rd ++ ", " ++ regText rs1 ++ ", " ++ regText rs2
  | .negf rd rs1 => "NEGF " ++ regText rd ++ ", " ++ regText rs1
  | .mulf rd rs1 rs2 => "MULF " ++ regText rd ++ ", " ++ regText rs1 ++ ", " ++ regText rs2
  | .round rd rs1 => "ROUND " ++ regText rd ++ ", " ++ regText rs1
  | .samplez => "SAMPLEZ"
  | .compress rs1 imm => "COMPRESS " ++ regText rs1 ++ ", " ++ toString imm.toNat
  | .decompress rd imm => "DECOMPRESS " ++ regText rd ++ ", " ++ toString imm.toNat

end Sys2Proof
end

