-- ==== Sys2Proof/Machine/State.lean ====
section
/-! DEFINITION. The architectural state of one PRAU (`10_state.md` R20), the host's pending moves, and the state after
reset (R41). -/

namespace Sys2Proof.Machine

/-- The six faults of `60_exceptions.md` R201, in the order of their codes 1 to 6. They are values of `STATUS.FAULT`,
not stops of the model: a faulted PRAU is a state (R214). -/
inductive PrauFault where
  /-- 1: the word is no command (R203). -/
  | illegalCmd
  /-- 2: a parameter or the configuration is not admitted (R204). -/
  | invalidParam
  /-- 3: a source register has tag `E` (R205). -/
  | unwritten
  /-- 4: the source tags are not an admitted combination (R206). -/
  | domain
  /-- 5: the divisor is not invertible (R207). -/
  | divByZero
  /-- 6: a value does not fit (R208). -/
  | range
deriving DecidableEq, Repr

/-- The result codes of `STATUS.RES` (R27), in the order of their codes 0 to 2. -/
inductive Res where
  /-- 0: the command completed. -/
  | ok
  /-- 1: `COMPRESS` did not fit its bytes (R184). -/
  | overflow
  /-- 2: `DECOMPRESS` met a string that is no encoding (R187). -/
  | malformed
deriving DecidableEq, Repr

/-- A move of the world outside the PRAU (`70_reset_and_hazards.md` R236). -/
inductive HostOp where
  /-- `MemRead(off, 4)` (R52). -/
  | read (off : Offset)
  /-- `MemWrite(off, 4, v)` (R53). -/
  | write (off : Offset) (v : Word)
  /-- The input `rst` is asserted (R230); it can arrive while a command runs. -/
  | rst
  /-- The host lets time pass (R236). -/
  | idle
deriving DecidableEq, Repr

/-- A `SAMPLEZ` that has started and not ended (R163, R241). -/
structure LeafRun where
  /-- Attempts that ended in *reject*. -/
  rej : Nat
  /-- The bytes the current attempt has taken, first byte first. -/
  taken : List Byte
deriving DecidableEq, Repr

/-- The storage of the two windows, `BB` and the lanes, by byte offset in the register space (R50, R56, R57): the bytes
written since reset, at strictly rising offsets. A byte that is not listed has no value; reading it gives a free value
(`20_memory.md` R62). -/
abbrev Memory := List Host.Cell

/-- The state of one PRAU (R20), with the RNG position (R38) and the model's own fields. -/
structure State where
  /-- `BB` and the lanes of `P0` to `P7` (R21, R22, R36). -/
  mem : Memory
  /-- `tag[0..7]` (R23). -/
  tags : Vector Tag 8
  /-- `LOGN` (R30). -/
  logn : BitVec 4
  /-- `BLEN` (R31). -/
  blen : BitVec 12
  /-- `STATUS.FAULT` (R27); `none` is code 0, no fault. -/
  fault : Option PrauFault
  /-- `STATUS.RES` (R27). -/
  res : Res
  /-- `FCMD` (R28). -/
  fcmd : Word
  /-- `SZ` (R32). -/
  sz : Word
  /-- `REJCNT` (R33). -/
  rejcnt : Word
  /-- `MU` (R35). -/
  mu : F64
  /-- `SIGLEAF` (R35). -/
  sigleaf : F64
  /-- `SIGMIN` (R35). -/
  sigmin : F64
  /-- The running `SAMPLEZ`; the signal `busy` of R39 is 1 when there is one. -/
  leaf : Option LeafRun
  /-- The position of the RNG stream (R38); outside the PRAU, advanced by `SAMPLEZ` only. -/
  rngPos : Nat
  /-- MODEL: the moves the outside world has yet to make, first move first (R26; log 1). -/
  inputs : List HostOp
  /-- MODEL: the word a read returned to the host in the last step, if that step was a read (R52; log 14). -/
  rdata : Option Word
  /-- MODEL: the number of the current step; it indexes the free values and nothing else (log 2). -/
  now : Nat
deriving DecidableEq, Repr

/-- Reasons for the machine to stop. There is none: every fault of the PRAU is a state it goes on from by reset
(R214, R215), and a command that never ends is a machine that stays busy (R241). -/
inductive Fault where
deriving DecidableEq, Repr

/-- What the model has no meaning for. -/
inductive Refusal where
  /-- Raised by an arm of `exec` for an instruction that has no meaning yet. Safe: the machine stops. -/
  | notModelled (mnemonic : String)
  /-- Raised by a read or write whose offset is not a multiple of 4, which the bus cannot express (R58, U9; log 13).
  Safe: the machine stops where the spec gives no rule. -/
  | misalignedAccess
deriving DecidableEq, Repr

/-- The state after reset (R41, R231): nothing is known of lanes and `BB`. -/
def State.reset : State where
  mem := []
  tags := Vector.replicate 8 .e
  logn := 0
  blen := 0
  fault := none
  res := .ok
  fcmd := 0
  sz := 0
  rejcnt := 0
  mu := 0
  sigleaf := 0
  sigmin := 0
  leaf := none
  rngPos := 0
  inputs := []
  rdata := none
  now := 0

end Sys2Proof.Machine
end

