-- ==== Sys2Proof/Machine/Ops.lean ====
section
/-! DEFINITION. The named operations over the state: storage, the registers' updates, reset, fault entry, and the one
procedure every command follows (`40_control.md` R90). -/

namespace Sys2Proof.Machine

/-! Storage. -/

/-- The byte listed at offset `a`, if nothing but the unwritten is there `none`. -/
def Memory.lookup : Memory → Nat → Option Byte
  | [], _ => none
  | (x, b) :: m, a => if x = a then some b else Memory.lookup m a

/-- Lists byte `b` at offset `a`, in rising order of offsets. -/
def Memory.insert : Memory → Nat → Byte → Memory
  | [], a, b => [(a, b)]
  | (x, y) :: m, a, b =>
    if a < x then (a, b) :: (x, y) :: m
    else if a = x then (a, b) :: m
    else (x, y) :: Memory.insert m a b

/-- The offsets of `m` are all at least `lo` and strictly rising. -/
def Memory.risingFrom : Nat → Memory → Bool
  | _, [] => true
  | lo, (x, _) :: m => decide (lo ≤ x) && Memory.risingFrom (x + 1) m

/-- The canonical form: offsets strictly rise. An unlisted byte has no value, so no entry can equal it. -/
def Memory.wf (m : Memory) : Bool := Memory.risingFrom 0 m

/-- Stores a run of bytes from offset `a` upward: the one operation that writes storage. -/
def Memory.store : Memory → Nat → List Byte → Memory
  | m, _, [] => m
  | m, a, b :: bs => Memory.store (Memory.insert m a b) (a + 1) bs

/-- The byte at offset `a`: the listed byte, or the free value of an unwritten one at this step (R62). -/
def State.byteAt (s : State) (a : Nat) : Byte :=
  (Memory.lookup s.mem a).getD (Config.unwritten s.now a)

/-- The `k` bytes from offset `a` upward. -/
def State.bytesAt (s : State) (a k : Nat) : List Byte :=
  (List.range k).map fun i => s.byteAt (a + i)

/-- The number a run of bytes stands for, first byte least significant (R55). -/
def leNat : List Byte → Nat
  | [] => 0
  | b :: bs => b.toNat + 256 * leNat bs

/-- The `k` bytes of the number `v`, least significant first (R55). -/
def leBytes : Nat → Nat → List Byte
  | 0, _ => []
  | k + 1, v => BitVec.ofNat 8 v :: leBytes k (v / 256)

/-- The 32-bit word at byte offset `a` (R55). -/
def State.wordAt (s : State) (a : Nat) : Word := BitVec.ofNat 32 (leNat (s.bytesAt a 4))

/-- The offset of byte `BB[k]` (R57). -/
def bbAddr (k : Nat) : Nat := 0x1000 + k

/-- The offset of lane `j` of register `r` (R56). -/
def laneAddr (r : Reg) (j : Nat) : Nat := 0x20000 + r.val * 0x4000 + j * 0x10

/-- The number of active lanes, `n = 2^LOGN` (R6, R21). -/
def State.n (s : State) : Nat := 2 ^ s.logn.toNat

/-- Lane `j` of register `r`, all four words (R22). -/
def State.lane (s : State) (r : Reg) (j : Nat) : Lane :=
  BitVec.ofNat 128 (leNat (s.bytesAt (laneAddr r j) 16))

/-- The bytes of a run of lanes, lane by lane. -/
def laneBytes (ls : List Lane) : List Byte := ls.flatMap fun c => leBytes 16 c.toNat

/-! Updates, one per register. -/

/-- Stores a run of bytes of the register space. -/
def State.store (s : State) (a : Nat) (bs : List Byte) : State :=
  { s with mem := Memory.store s.mem a bs }

/-- Writes lanes `0`, `1`, ... of register `r`; `ls` holds the active lanes (R42, R95). -/
def State.putLanes (s : State) (r : Reg) (ls : List Lane) : State :=
  s.store (laneAddr r 0) (laneBytes ls)

/-- `tag[r] <- t`. -/
def State.setTag (s : State) (r : Reg) (t : Tag) : State :=
  { s with tags := s.tags.set r.val t r.isLt }

/-- `tag[r] <- E` for every `r` (R92). -/
def State.clearTags (s : State) : State := { s with tags := Vector.replicate 8 .e }

/-- `STATUS.RES <- c`. -/
def State.setRes (s : State) (c : Res) : State := { s with res := c }

/-- `LOGN <- v`. -/
def State.setLogn (s : State) (v : BitVec 4) : State := { s with logn := v }

/-- `BLEN <- v`. -/
def State.setBlen (s : State) (v : BitVec 12) : State := { s with blen := v }

/-- `SZ <- v`. -/
def State.setSz (s : State) (v : Word) : State := { s with sz := v }

/-- `REJCNT <- v`. -/
def State.setRejcnt (s : State) (v : Word) : State := { s with rejcnt := v }

/-- `MU <- v`. -/
def State.setMu (s : State) (v : F64) : State := { s with mu := v }

/-- `SIGLEAF <- v`. -/
def State.setSigleaf (s : State) (v : F64) : State := { s with sigleaf := v }

/-- `SIGMIN <- v`. -/
def State.setSigmin (s : State) (v : F64) : State := { s with sigmin := v }

/-- The running `SAMPLEZ`, or none. -/
def State.setLeaf (s : State) (l : Option LeafRun) : State := { s with leaf := l }

/-- The position of the RNG stream. -/
def State.setRngPos (s : State) (p : Nat) : State := { s with rngPos := p }

/-- The moves still to come. -/
def State.setInputs (s : State) (ops : List HostOp) : State := { s with inputs := ops }

/-- The word a read puts on the bus. -/
def State.setRdata (s : State) (w : Option Word) : State := { s with rdata := w }

/-- The next step has its own free values. -/
def State.tick (s : State) : State := { s with now := s.now + 1 }

/-- `busy` (R39). -/
def State.busy (s : State) : Bool := s.leaf.isSome

/-! Faults and reset. -/

/-- Fault entry (R214) for fault `f` raised by the command word `c`. -/
def State.faultEntry (s : State) (f : PrauFault) (c : Word) : State :=
  { s with fault := some f, fcmd := c }

/-- The effect of reset (R231), by `rst` or by `CTRL` (R230): also the one way out of the faulted state (R215). Nothing is
known of lanes and `BB` afterwards; a running `SAMPLEZ` is abandoned; the RNG stream is not touched. The moves still to
come and the step counter are the model's own. -/
def State.applyReset (s : State) : State :=
  { State.reset with rngPos := s.rngPos, inputs := s.inputs, now := s.now }

/-! The procedure of every command. -/

/-- Step 2, for a command that depends on `n` (R90, R204(a)). -/
def needsN (s : State) : Option PrauFault :=
  if s.logn = 0#4 then some .invalidParam else none

/-- Step 3 (R90, R205, R206): an empty source is `UNWRITTEN`, tags that are not an admitted combination are `DOMAIN`. -/
def tagCheck (s : State) (sources : List Reg) (admitted : List (List Tag)) : Option PrauFault :=
  if sources.any fun r => s.tags[r] = .e then some .unwritten
  else if admitted.contains (sources.map fun r => s.tags[r]) then none
  else some .domain

/-- Step 1 for a command given as an `Instr`: one without a legal word is illegal (R77; log 16). -/
def legalCheck (i : Instr) : Option PrauFault :=
  if WellFormed i then none else some .illegalCmd

/-- The first fault of a list of checks in the order of R90's steps (R212). -/
def firstFault : List (Option PrauFault) → Option PrauFault
  | [] => none
  | some f :: _ => some f
  | none :: cs => firstFault cs

/-- The execution procedure of R90: step 0 drops the command while faulted; the first fault of steps 1 to 4 ends it with
fault entry; otherwise step 5 commits. -/
def runCommand (i : Instr) (s : State) (checks : List (Option PrauFault)) (commit : State → State) :
    Host.Outcome State Fault Refusal :=
  if s.fault.isSome then .next s
  else
    match firstFault (legalCheck i :: checks) with
    | some f => .next (s.faultEntry f (encode i))
    | none => .next (commit s)

/-- The commit of a command whose destination is a polynomial register. -/
def State.commitLanes (s : State) (rd : Reg) (t : Tag) (ls : List Lane) : State :=
  ((s.putLanes rd ls).setTag rd t).setRes .ok

end Sys2Proof.Machine
end

