-- ==== Sys2Proof/Machine/Operands.lean ====
section
/-! DEFINITION. Typed views of lanes (`10_state.md` R24) and the lane-wise shapes commands are made of. -/

namespace Sys2Proof.Machine

/-- Word `k` of a lane (R22). -/
def laneWord (c : Lane) (k : Nat) : Word := c.extractLsb' (32 * k) 32

/-- `Zv`: the signed integer of a `Z` lane (R24). -/
def zOf (c : Lane) : Int := (laneWord c 0).toInt

/-- `Qv`: the integer of a `Q` or `N` lane (R24). -/
def qOf (c : Lane) : Nat := (laneWord c 0).toNat

/-- `Rv`: the binary64 pattern of an `R` lane (R24). -/
def rOf (c : Lane) : F64 := laneWord c 1 ++ laneWord c 0

/-- `Fv`: the complex pair of an `F` lane (R24). -/
def fOf (c : Lane) : F64 × F64 := (laneWord c 1 ++ laneWord c 0, laneWord c 3 ++ laneWord c 2)

/-- The four words written for the integer `v` under `Z` (R24). -/
def zLane (v : Int) : Lane := (BitVec.ofInt 32 v).setWidth 128

/-- The four words written for `v` in `[0, Q)` under `Q` or `N` (R24). -/
def qLane (v : Nat) : Lane := (BitVec.ofNat 32 v).setWidth 128

/-- The four words written for a pattern under `R` (R24). -/
def rLane (x : F64) : Lane := x.setWidth 128

/-- The four words written for a pair under `F` (R24). -/
def fLane (x : F64 × F64) : Lane := x.2 ++ x.1

/-- `u32` is defined on `[−2^31, 2^31 − 1]` (R7). -/
def fitsInt32 (z : Int) : Bool := decide (-2 ^ 31 ≤ z) && decide (z ≤ 2 ^ 31 - 1)

/-- The active lanes of a register, lane 0 first (R21). -/
def State.lanes (s : State) (r : Reg) : List Lane := (List.range s.n).map (s.lane r)

/-- `[ Zv(r)[j] for j in 0..n-1 ]`. -/
def State.zs (s : State) (r : Reg) : List Int := (s.lanes r).map zOf

/-- `[ Qv(r)[j] for j in 0..n-1 ]`. -/
def State.qs (s : State) (r : Reg) : List Nat := (s.lanes r).map qOf

/-- `[ Rv(r)[j] for j in 0..n-1 ]`. -/
def State.rs (s : State) (r : Reg) : List F64 := (s.lanes r).map rOf

/-- `[ Fv(r)[j] for j in 0..n-1 ]`. -/
def State.fs (s : State) (r : Reg) : List (F64 × F64) := (s.lanes r).map fOf

/-- Lane `j` of the result from lane `j` of one source. -/
def State.lanewise1 (s : State) (a : Reg) (f : Nat → Lane → Lane) : List Lane :=
  (List.range s.n).map fun j => f j (s.lane a j)

/-- Lane `j` of the result from lane `j` of two sources (R105). -/
def State.lanewise2 (s : State) (a b : Reg) (f : Nat → Lane → Lane → Lane) : List Lane :=
  (List.range s.n).map fun j => f j (s.lane a j) (s.lane b j)

end Sys2Proof.Machine
end

