-- ==== Sys2Proof/Machine/Codec.lean ====
section
/-! DEFINITION. The codec commands `COMPRESS` and `DECOMPRESS` (`44_codec.md`). -/

namespace Sys2Proof.Machine

/-- The commit of `COMPRESS`: on `Overflow` only the result code changes (R184). -/
def State.compressCommit (s : State) (imm : BitVec 12) (r : Option (List Byte)) : State :=
  match r with
  | none => s.setRes .overflow
  | some bs => ((s.store (bbAddr 0) bs).setBlen imm).setRes .ok

/-- `COMPRESS Ps1, imm` (R184). -/
def execCompress (rs1 : Reg) (imm : BitVec 12) (s : State) (cfg : Configuration := Config.prau) :
    Host.Outcome State Fault Refusal :=
  runCommand (.compress rs1 imm) s [needsN s, tagCheck s [rs1] [[.z]]]
    fun s => s.compressCommit imm (compress cfg.params (s.zs rs1) imm.toNat)

/-- `DECOMPRESS`'s parameter check (R187, R204(c)). -/
def decompressCheck (imm blen : BitVec 12) : Option PrauFault :=
  if blen.toNat < imm.toNat then some .invalidParam else none

/-- The commit of `DECOMPRESS`: on `Malformed` only the result code changes (R187). -/
def State.decompressCommit (s : State) (rd : Reg) (r : Option (List Int)) : State :=
  match r with
  | none => s.setRes .malformed
  | some cs => s.commitLanes rd .z (cs.map zLane)

/-- `DECOMPRESS Pd, imm` (R187). -/
def execDecompress (rd : Reg) (imm : BitVec 12) (s : State) (cfg : Configuration := Config.prau) :
    Host.Outcome State Fault Refusal :=
  runCommand (.decompress rd imm) s [needsN s, decompressCheck imm s.blen]
    fun s => s.decompressCommit rd (decompress cfg.params (s.bytesAt (bbAddr 0) imm.toNat) s.n)

end Sys2Proof.Machine
end

