-- ==== Sys2Proof/Machine/Control.lean ====
section
/-! DEFINITION. The control commands `NOP`, `CFG`, `TAG`, `MOV` (`40_control.md`). -/

namespace Sys2Proof.Machine

/-- `NOP` (R91). -/
def execNop (s : State) : Host.Outcome State Fault Refusal :=
  runCommand .nop s [] fun s => s.setRes .ok

/-- `CFG`'s parameter check (R92, R204(b)). -/
def cfgCheck (imm : BitVec 12) : Option PrauFault :=
  if imm.toNat < 1 ∨ 10 < imm.toNat then some .invalidParam else none

/-- `CFG imm` (R92). -/
def execCfg (imm : BitVec 12) (s : State) : Host.Outcome State Fault Refusal :=
  runCommand (.cfg imm) s [cfgCheck imm] fun s => ((s.setLogn (imm.setWidth 4)).clearTags).setRes .ok

/-- The condition `TAG` puts on an active lane (R93, step 4). -/
def tagAdmits (q : Nat) (t : Tag) (c : Lane) : Bool :=
  match t with
  | .z => laneWord c 1 == 0 && laneWord c 2 == 0 && laneWord c 3 == 0
  | .q => laneWord c 1 == 0 && laneWord c 2 == 0 && laneWord c 3 == 0 && decide ((laneWord c 0).toNat < q)
  | .n => laneWord c 1 == 0 && laneWord c 2 == 0 && laneWord c 3 == 0 && decide ((laneWord c 0).toNat < q)
  | .r => laneWord c 2 == 0 && laneWord c 3 == 0
  | .f => true
  | .e => false
  | .raw => false

/-- `TAG`'s data check over the active lanes (R93, R208(a)). -/
def tagDataCheck (q : Nat) (t : Tag) (lanes : List Lane) : Option PrauFault :=
  if lanes.all (tagAdmits q t) then none else some .range

/-- `TAG Pd, t` (R93). The lanes are stored as they were read: no listed word changes, and a word that nothing had written
keeps from now on the value the check saw (log 4). -/
def execTag (rd : Reg) (t : Tag) (s : State) (cfg : Configuration := Config.prau) :
    Host.Outcome State Fault Refusal :=
  runCommand (.tag rd t) s [needsN s, tagCheck s [rd] [[.raw]], tagDataCheck cfg.params.q t (s.lanes rd)]
    fun s => s.commitLanes rd t (s.lanes rd)

/-- `MOV Pd, Ps1` (R94). -/
def execMov (rd rs1 : Reg) (s : State) : Host.Outcome State Fault Refusal :=
  runCommand (.mov rd rs1) s [needsN s, tagCheck s [rs1] [[.z], [.q], [.n], [.r], [.f]]]
    fun s => s.commitLanes rd s.tags[rs1] (s.lanes rs1)

end Sys2Proof.Machine
end

