-- ==== Sys2Proof/Machine/Ring.lean ====
section
/-! DEFINITION. The exact ring of `41_ring_exact.md`: modular arithmetic, the number-theoretic transform and its inverse,
the product and the quotient, on plain lists. Integers are computed exactly and reduced at the end (R8, R105). -/

namespace Sys2Proof.Machine

/-- `x mod q`, the mathematical remainder in `[0, q)`, for negative `x` too (R8). -/
def modQ (q : Nat) (x : Int) : Nat := (x % (q : Int)).toNat

/-- `inv_Q(x)` for `x` in `[1, Q)`: `x^(Q−2) mod Q`, by Fermat (R8; log 19). No rule evaluates it at 0. -/
def invQ (q x : Nat) : Nat := x ^ (q - 2) % q

/-- `psi_n = PSI^(1024/n) mod Q` for `n = 2^logn` (R6). -/
def psiN (p : Params) (logn : Nat) : Nat := p.psi ^ (1024 / 2 ^ logn) % p.q

/-- `ninv_n = inv_Q(n mod Q)` (R6, R102). -/
def nInv (p : Params) (logn : Nat) : Nat := invQ p.q (2 ^ logn % p.q)

/-- `Σ_i c_i · f(i)` over a list, the first element having index `i`. -/
def weighFrom (f : Nat → Nat) : Nat → List Nat → Nat
  | _, [] => 0
  | i, c :: cs => c * f i + weighFrom f (i + 1) cs

/-- `Σ_i c_i · f(i)`. -/
def weigh (f : Nat → Nat) (cs : List Nat) : Nat := weighFrom f 0 cs

/-- Lane `k` of `ntt_n(a)`: the value of the polynomial `a` at the point `psi_n^(2k+1)` (R101). -/
def nttLane (p : Params) (logn : Nat) (a : List Nat) (k : Nat) : Nat :=
  let point := psiN p logn ^ (2 * k + 1) % p.q
  weigh (fun j => point ^ j) a % p.q

/-- `ntt_n` (R101). -/
def ntt (p : Params) (logn : Nat) (a : List Nat) : List Nat :=
  (List.range (2 ^ logn)).map (nttLane p logn a)

/-- Lane `j` of `intt_n(A)`: `ninv_n · Σ_k A_k · psi_n^(−(2k+1)·j)`, with `psi_n^(−e) = inv_Q(psi_n)^e` (R102). -/
def inttLane (p : Params) (logn : Nat) (A : List Nat) (j : Nat) : Nat :=
  let psiInv := invQ p.q (psiN p logn)
  nInv p logn * weigh (fun k => (psiInv ^ (2 * k + 1) % p.q) ^ j) A % p.q

/-- `intt_n` (R102). -/
def intt (p : Params) (logn : Nat) (A : List Nat) : List Nat :=
  (List.range (2 ^ logn)).map (inttLane p logn A)

/-- The product modulo `Q` of two values (R109). -/
def mulMod (p : Params) (x y : Nat) : Nat := x * y % p.q

/-- The quotient modulo `Q` of two values, the second not 0 (R110). -/
def divMod (p : Params) (x y : Nat) : Nat := x * invQ p.q y % p.q

/-- The ring product of two coefficient lists by way of the transform (R111). -/
def mulRing (p : Params) (logn : Nat) (a b : List Nat) : List Nat :=
  intt p logn (List.zipWith (mulMod p) (ntt p logn a) (ntt p logn b))

/-- The ring quotient of two coefficient lists, the second invertible (R112). -/
def divRing (p : Params) (logn : Nat) (a b : List Nat) : List Nat :=
  intt p logn (List.zipWith (divMod p) (ntt p logn a) (ntt p logn b))

/-- The centred representative of a residue (R114). -/
def center (q v : Nat) : Int := if 2 * v ≤ q then (v : Int) else (v : Int) - q

end Sys2Proof.Machine
end

