-- ==== Sys2Proof/Machine/Exact.lean ====
section
/-! DEFINITION. The exact ring commands and the conversions between integers and residues (`41_ring_exact.md`). -/

namespace Sys2Proof.Machine

/-- Step 4 of `DIVN` and `DIVQ`: a zero among the divisor's NTT values (R110, R112, R207). -/
def divisorCheck (values : List Nat) : Option PrauFault :=
  if values.any (· == 0) then some .divByZero else none

/-- `NTT Pd, Ps1` (R103). -/
def execNtt (rd rs1 : Reg) (s : State) (cfg : Configuration := Config.prau) :
    Host.Outcome State Fault Refusal :=
  runCommand (.ntt rd rs1) s [needsN s, tagCheck s [rs1] [[.q]]]
    fun s => s.commitLanes rd .n ((ntt cfg.params s.logn.toNat (s.qs rs1)).map qLane)

/-- `INTT Pd, Ps1` (R104). -/
def execIntt (rd rs1 : Reg) (s : State) (cfg : Configuration := Config.prau) :
    Host.Outcome State Fault Refusal :=
  runCommand (.intt rd rs1) s [needsN s, tagCheck s [rs1] [[.n]]]
    fun s => s.commitLanes rd .q ((intt cfg.params s.logn.toNat (s.qs rs1)).map qLane)

/-- `ADDQ Pd, Ps1, Ps2` (R106). -/
def execAddq (rd rs1 rs2 : Reg) (s : State) (cfg : Configuration := Config.prau) :
    Host.Outcome State Fault Refusal :=
  runCommand (.addq rd rs1 rs2) s [needsN s, tagCheck s [rs1, rs2] [[.q, .q], [.n, .n]]]
    fun s => s.commitLanes rd s.tags[rs1]
      (s.lanewise2 rs1 rs2 fun _ x y => qLane (modQ cfg.params.q (qOf x + qOf y)))

/-- `SUBQ Pd, Ps1, Ps2` (R107); the minuend is `rs1`. -/
def execSubq (rd rs1 rs2 : Reg) (s : State) (cfg : Configuration := Config.prau) :
    Host.Outcome State Fault Refusal :=
  runCommand (.subq rd rs1 rs2) s [needsN s, tagCheck s [rs1, rs2] [[.q, .q], [.n, .n]]]
    fun s => s.commitLanes rd s.tags[rs1]
      (s.lanewise2 rs1 rs2 fun _ x y => qLane (modQ cfg.params.q ((qOf x : Int) - qOf y)))

/-- `NEGQ Pd, Ps1` (R108). -/
def execNegq (rd rs1 : Reg) (s : State) (cfg : Configuration := Config.prau) :
    Host.Outcome State Fault Refusal :=
  runCommand (.negq rd rs1) s [needsN s, tagCheck s [rs1] [[.q], [.n]]]
    fun s => s.commitLanes rd s.tags[rs1]
      (s.lanewise1 rs1 fun _ x => qLane (modQ cfg.params.q (-(qOf x : Int))))

/-- `MULN Pd, Ps1, Ps2` (R109). -/
def execMuln (rd rs1 rs2 : Reg) (s : State) (cfg : Configuration := Config.prau) :
    Host.Outcome State Fault Refusal :=
  runCommand (.muln rd rs1 rs2) s [needsN s, tagCheck s [rs1, rs2] [[.n, .n]]]
    fun s => s.commitLanes rd .n
      (s.lanewise2 rs1 rs2 fun _ x y => qLane (mulMod cfg.params (qOf x) (qOf y)))

/-- `DIVN Pd, Ps1, Ps2` (R110); the dividend is `rs1`, the divisor `rs2`. -/
def execDivn (rd rs1 rs2 : Reg) (s : State) (cfg : Configuration := Config.prau) :
    Host.Outcome State Fault Refusal :=
  runCommand (.divn rd rs1 rs2) s
    [needsN s, tagCheck s [rs1, rs2] [[.n, .n]], divisorCheck (s.qs rs2)]
    fun s => s.commitLanes rd .n
      (s.lanewise2 rs1 rs2 fun _ x y => qLane (divMod cfg.params (qOf x) (qOf y)))

/-- `MULQ Pd, Ps1, Ps2` (R111). -/
def execMulq (rd rs1 rs2 : Reg) (s : State) (cfg : Configuration := Config.prau) :
    Host.Outcome State Fault Refusal :=
  runCommand (.mulq rd rs1 rs2) s [needsN s, tagCheck s [rs1, rs2] [[.q, .q]]]
    fun s => s.commitLanes rd .q ((mulRing cfg.params s.logn.toNat (s.qs rs1) (s.qs rs2)).map qLane)

/-- `DIVQ Pd, Ps1, Ps2` (R112). -/
def execDivq (rd rs1 rs2 : Reg) (s : State) (cfg : Configuration := Config.prau) :
    Host.Outcome State Fault Refusal :=
  runCommand (.divq rd rs1 rs2) s
    [needsN s, tagCheck s [rs1, rs2] [[.q, .q]],
      divisorCheck (ntt cfg.params s.logn.toNat (s.qs rs2))]
    fun s => s.commitLanes rd .q ((divRing cfg.params s.logn.toNat (s.qs rs1) (s.qs rs2)).map qLane)

/-- `REDUCE Pd, Ps1` (R113). -/
def execReduce (rd rs1 : Reg) (s : State) (cfg : Configuration := Config.prau) :
    Host.Outcome State Fault Refusal :=
  runCommand (.reduce rd rs1) s [needsN s, tagCheck s [rs1] [[.z]]]
    fun s => s.commitLanes rd .q (s.lanewise1 rs1 fun _ x => qLane (modQ cfg.params.q (zOf x)))

/-- `CENTER Pd, Ps1` (R114). -/
def execCenter (rd rs1 : Reg) (s : State) (cfg : Configuration := Config.prau) :
    Host.Outcome State Fault Refusal :=
  runCommand (.center rd rs1) s [needsN s, tagCheck s [rs1] [[.q]]]
    fun s => s.commitLanes rd .z (s.lanewise1 rs1 fun _ x => zLane (center cfg.params.q (qOf x)))

end Sys2Proof.Machine
end

