-- ==== Sys2Proof/Machine/Float.lean ====
section
/-! DEFINITION. The floating-point ring commands and the rounding conversion (`42_ring_float.md`). -/

namespace Sys2Proof.Machine

/-- The NaN pattern that operation number `slot` on lane `j` would produce in this step: a draw (R131, U2; log 5). -/
def State.nanAt (s : State) (j slot : Nat) : F64 := nanOf (Config.nanBits s.now j slot)

/-- What `FFT` reads from a lane under the source's tag (R137): integers and residues exactly, reals as they are. -/
def fftInput (num : Numerics) (t : Tag) (c : Lane) : F64 :=
  if t = .z then num.i2f (zOf c) else if t = .q then num.i2f (qOf c) else rOf c

/-- The lanes `FFT` writes, with the transforms `num` (R134, R137). -/
def fftLanes (num : Numerics) (logn : Nat) (input : List F64) : List Lane :=
  (List.range (2 ^ logn)).map fun k => fLane (num.fft logn input k)

/-- The lanes `IFFT` writes, with the transforms `num` (R134, R138). -/
def ifftLanes (num : Numerics) (logn : Nat) (input : List (F64 × F64)) : List Lane :=
  (List.range (2 ^ logn)).map fun j => rLane (num.ifft logn input j)

/-- `FFT Pd, Ps1` (R137). -/
def execFft (rd rs1 : Reg) (s : State) (cfg : Configuration := Config.prau) :
    Host.Outcome State Fault Refusal :=
  runCommand (.fft rd rs1) s [needsN s, tagCheck s [rs1] [[.z], [.q], [.r]]]
    fun s => s.commitLanes rd .f
      (fftLanes cfg.num s.logn.toNat ((s.lanes rs1).map (fftInput cfg.num s.tags[rs1])))

/-- `IFFT Pd, Ps1` (R138). -/
def execIfft (rd rs1 : Reg) (s : State) (cfg : Configuration := Config.prau) :
    Host.Outcome State Fault Refusal :=
  runCommand (.ifft rd rs1) s [needsN s, tagCheck s [rs1] [[.f]]]
    fun s => s.commitLanes rd .r (ifftLanes cfg.num s.logn.toNat (s.fs rs1))

/-- A lane-wise sum or difference: real lanes under tag `R`, both parts under tag `F` (R139, R140). -/
def realOrComplex (t : Tag) (op : Nat → F64 → F64 → F64) (x y : Lane) : Lane :=
  if t = .r then rLane (op 0 (rOf x) (rOf y))
  else fLane (op 0 (fOf x).1 (fOf y).1, op 1 (fOf x).2 (fOf y).2)

/-- `ADDF Pd, Ps1, Ps2` (R139). -/
def execAddf (rd rs1 rs2 : Reg) (s : State) (cfg : Configuration := Config.prau) :
    Host.Outcome State Fault Refusal :=
  runCommand (.addf rd rs1 rs2) s [needsN s, tagCheck s [rs1, rs2] [[.r, .r], [.f, .f]]]
    fun s => s.commitLanes rd s.tags[rs1]
      (s.lanewise2 rs1 rs2 fun j => realOrComplex s.tags[rs1] fun slot => cfg.num.fadd (s.nanAt j slot))

/-- `SUBF Pd, Ps1, Ps2` (R140); the minuend is `rs1`. -/
def execSubf (rd rs1 rs2 : Reg) (s : State) (cfg : Configuration := Config.prau) :
    Host.Outcome State Fault Refusal :=
  runCommand (.subf rd rs1 rs2) s [needsN s, tagCheck s [rs1, rs2] [[.r, .r], [.f, .f]]]
    fun s => s.commitLanes rd s.tags[rs1]
      (s.lanewise2 rs1 rs2 fun j => realOrComplex s.tags[rs1] fun slot => cfg.num.fsub (s.nanAt j slot))

/-- A negated lane: the absent imaginary part of a real lane is not negated (R141). -/
def negLane (num : Numerics) (t : Tag) (x : Lane) : Lane :=
  if t = .r then rLane (num.fneg (rOf x)) else fLane (num.fneg (fOf x).1, num.fneg (fOf x).2)

/-- `NEGF Pd, Ps1` (R141). -/
def execNegf (rd rs1 : Reg) (s : State) (cfg : Configuration := Config.prau) :
    Host.Outcome State Fault Refusal :=
  runCommand (.negf rd rs1) s [needsN s, tagCheck s [rs1] [[.r], [.f]]]
    fun s => s.commitLanes rd s.tags[rs1] (s.lanewise1 rs1 fun _ => negLane cfg.num s.tags[rs1])

/-- The complex product of R142, six separately rounded operations; `nan i` is the pattern operation `i` gives for a
NaN. -/
def complexMul (num : Numerics) (nan : Nat → F64) (a b : F64 × F64) : F64 × F64 :=
  (num.fsub (nan 2) (num.fmul (nan 0) a.1 b.1) (num.fmul (nan 1) a.2 b.2),
   num.fadd (nan 5) (num.fmul (nan 3) a.1 b.2) (num.fmul (nan 4) a.2 b.1))

/-- `MULF Pd, Ps1, Ps2` (R142). -/
def execMulf (rd rs1 rs2 : Reg) (s : State) (cfg : Configuration := Config.prau) :
    Host.Outcome State Fault Refusal :=
  runCommand (.mulf rd rs1 rs2) s [needsN s, tagCheck s [rs1, rs2] [[.f, .f]]]
    fun s => s.commitLanes rd .f
      (s.lanewise2 rs1 rs2 fun j x y => fLane (complexMul cfg.num (s.nanAt j) (fOf x) (fOf y)))

/-- A real that rounds to a 32-bit integer (R143). -/
def roundsToInt32 (num : Numerics) (x : F64) : Bool :=
  match num.fround x with
  | none => false
  | some z => fitsInt32 z

/-- `ROUND`'s data check (R143, R208(b)). -/
def roundCheck (num : Numerics) (xs : List F64) : Option PrauFault :=
  if xs.all (roundsToInt32 num) then none else some .range

/-- `ROUND Pd, Ps1` (R143). -/
def execRound (rd rs1 : Reg) (s : State) (cfg : Configuration := Config.prau) :
    Host.Outcome State Fault Refusal :=
  runCommand (.round rd rs1) s [needsN s, tagCheck s [rs1] [[.r]], roundCheck cfg.num (s.rs rs1)]
    fun s => s.commitLanes rd .z (s.lanewise1 rs1 fun _ x => zLane ((cfg.num.fround (rOf x)).getD 0))

end Sys2Proof.Machine
end

