-- ==== Sys2Proof/Machine/Sampler.lean ====
section
/-! DEFINITION. The leaf core: `SAMPLEZ` (`43_sampler_leaf.md`). The loop of R163 takes as many bytes as the RNG port
delivers in a step; a draw that is not finished then leaves the machine busy, and the next step goes on with it (log 9). -/

namespace Sys2Proof.Machine

/-- The effective deviation `s`: the larger of two patterns, the pattern itself (R161). -/
def leafSigma (sigleaf sigmin : F64) : F64 := if fle sigmin sigleaf then sigleaf else sigmin

/-- `SAMPLEZ`'s operand check (R163, R204(d)). -/
def leafCheck (mu sigleaf sigmin : F64) : Option PrauFault :=
  if isFinite mu && isFinite sigleaf && isFinite sigmin && decide (0 < scaled (leafSigma sigleaf sigmin)) then none
  else some .invalidParam

/-- Where an attempt stands after the bytes it has taken: what it does with the next one (R162). -/
def awaiting : (Byte → LeafStep) → List Byte → Byte → LeafStep
  | att, [] => att
  | att, b :: bs =>
    match att b with
    | .more next => awaiting next bs
    | .accept _ => att
    | .reject => att

/-- How far the loop of R163 has come. -/
inductive LeafOutcome where
  /-- Not ended: rejected attempts, bytes of the current attempt, stream position. -/
  | pending (rej : Nat) (taken : List Byte) (pos : Nat)
  /-- An attempt accepted: the integer, the rejected attempts, the stream position. -/
  | accepted (z : Int) (rej pos : Nat)
deriving DecidableEq, Repr

/-- The loop of R163 over at most `fuel` bytes, one byte of the stream at a time (R38, R164). `att` is the attempt,
`cur` what the current attempt does with its next byte. -/
def leafLoop (att : Byte → LeafStep) (stream : Nat → Byte) :
    (fuel : Nat) → (cur : Byte → LeafStep) → (taken : List Byte) → (rej pos : Nat) → LeafOutcome
  | 0, _, taken, rej, pos => .pending rej taken pos
  | fuel + 1, cur, taken, rej, pos =>
    match cur (stream pos) with
    | .more next => leafLoop att stream fuel next (taken ++ [stream pos]) rej (pos + 1)
    | .reject => leafLoop att stream fuel att [] (rej + 1) (pos + 1)
    | .accept z => .accepted z rej (pos + 1)

/-- What the machine does with the loop's outcome: it stays busy, or it commits, or it faults because the integer does not
fit (R163, R208(c)). The bytes taken stay taken in every case. -/
def State.leafSettle (s : State) (o : LeafOutcome) : State :=
  match o with
  | .pending rej taken pos => (s.setLeaf (some ⟨rej, taken⟩)).setRngPos pos
  | .accepted z rej pos =>
    let s := (s.setLeaf none).setRngPos pos
    if fitsInt32 z then
      ((s.setSz (BitVec.ofInt 32 z)).setRejcnt (s.rejcnt + BitVec.ofNat 32 rej)).setRes .ok
    else s.faultEntry .range (encode .samplez)

/-- The attempt of the current operands. -/
def State.attempt (s : State) (cfg : Configuration) : Byte → LeafStep :=
  cfg.leafAttempt s.mu (leafSigma s.sigleaf s.sigmin)

/-- Goes on with a draw for as many bytes as the RNG port delivers in this step (R38, R241). -/
def State.leafAdvance (s : State) (cfg : Configuration) (run : LeafRun) : State :=
  s.leafSettle (leafLoop (s.attempt cfg) Config.rngByte (Config.rngDelivers s.now)
    (awaiting (s.attempt cfg) run.taken) run.taken run.rej s.rngPos)

/-- `SAMPLEZ` (R163): runs with any `LOGN` and reads no polynomial register. -/
def execSamplez (s : State) (cfg : Configuration := Config.prau) :
    Host.Outcome State Fault Refusal :=
  runCommand .samplez s [leafCheck s.mu s.sigleaf s.sigmin] fun s => s.leafAdvance cfg ⟨0, []⟩

end Sys2Proof.Machine
end

