-- ==== Sys2Proof/Machine/Commands.lean ====
section
/-! DEFINITION. The commands of a PRAU of any configuration. -/

namespace Sys2Proof.Machine

/-- Executes a command on a PRAU with the configuration `cfg` (`10_state.md` R40). `exec` is this function for the
configuration of this hardware. -/
def execIn (cfg : Configuration) (i : Instr) (s : State) : Host.Outcome State Fault Refusal :=
  match i with
  | .nop => execNop s
  | .cfg imm => execCfg imm s
  | .tag rd t => execTag rd t s cfg
  | .mov rd rs1 => execMov rd rs1 s
  | .ntt rd rs1 => execNtt rd rs1 s cfg
  | .intt rd rs1 => execIntt rd rs1 s cfg
  | .addq rd rs1 rs2 => execAddq rd rs1 rs2 s cfg
  | .subq rd rs1 rs2 => execSubq rd rs1 rs2 s cfg
  | .negq rd rs1 => execNegq rd rs1 s cfg
  | .muln rd rs1 rs2 => execMuln rd rs1 rs2 s cfg
  | .divn rd rs1 rs2 => execDivn rd rs1 rs2 s cfg
  | .mulq rd rs1 rs2 => execMulq rd rs1 rs2 s cfg
  | .divq rd rs1 rs2 => execDivq rd rs1 rs2 s cfg
  | .reduce rd rs1 => execReduce rd rs1 s cfg
  | .center rd rs1 => execCenter rd rs1 s cfg
  | .fft rd rs1 => execFft rd rs1 s cfg
  | .ifft rd rs1 => execIfft rd rs1 s cfg
  | .addf rd rs1 rs2 => execAddf rd rs1 rs2 s cfg
  | .subf rd rs1 rs2 => execSubf rd rs1 rs2 s cfg
  | .negf rd rs1 => execNegf rd rs1 s cfg
  | .mulf rd rs1 rs2 => execMulf rd rs1 rs2 s cfg
  | .round rd rs1 => execRound rd rs1 s cfg
  | .samplez => execSamplez s cfg
  | .compress rs1 imm => execCompress rs1 imm s cfg
  | .decompress rd imm => execDecompress rd imm s cfg

end Sys2Proof.Machine
end

