-- ==== Sys2Proof/Machine/Flags.lean ====
section
/-! DEFINITION. The status registers as the host reads them (`10_state.md` R27, R34). -/

namespace Sys2Proof.Machine

/-- The code of a fault in `STATUS.FAULT` (R27, R201). -/
def faultCode : Option PrauFault → Nat
  | none => 0
  | some .illegalCmd => 1
  | some .invalidParam => 2
  | some .unwritten => 3
  | some .domain => 4
  | some .divByZero => 5
  | some .range => 6

/-- The code of a result in `STATUS.RES` (R27). -/
def resCode : Res → Nat
  | .ok => 0
  | .overflow => 1
  | .malformed => 2

/-- `STATUS`: `FAULT` in bits 3:0, `RES` in bits 5:4, the rest zero (R27). -/
def State.statusWord (s : State) : Word := BitVec.ofNat 32 (faultCode s.fault + 16 * resCode s.res)

/-- The value of a list of 4-bit codes, first code in the lowest bits. -/
def packCodes : List Nat → Nat
  | [] => 0
  | c :: cs => c + 16 * packCodes cs

/-- `TAGS`: bits `4r+3 : 4r` are `tag[r]` (R34). -/
def State.tagsWord (s : State) : Word := BitVec.ofNat 32 (packCodes (s.tags.toList.map Tag.code))

end Sys2Proof.Machine
end

