-- ==== Sys2Proof/Machine/Bus.lean ====
section
/-! DEFINITION. The host register space and the bus (`20_memory.md`): reads, writes, the `CMD` write that runs a command,
and what one step of the machine does. Offsets are byte offsets from `BASE`; `hostOpOf` finds them from addresses (log 12). -/

namespace Sys2Proof.Machine

/-- The offset of `CMD` (R50). -/
def cmdOffset : Offset := 0x00000

/-- The offset of `CTRL` (R50). -/
def ctrlOffset : Offset := 0x0000C

/-- The offset lies in the `BB` window (R50, R57). -/
def inBB (a : Nat) : Bool := decide (0x1000 ≤ a) && decide (a < 0x2000)

/-- The offset lies in the polynomial window (R50, R56). -/
def inPoly (a : Nat) : Bool := decide (0x20000 ≤ a) && decide (a < 0x40000)

/-- The register an offset of the polynomial window belongs to (R56). -/
def polyReg (a : Nat) : Reg := Fin.ofNat 8 ((a - 0x20000) / 0x4000)

/-- The word the map of R50 gives for an offset (R52): unused bits, write-only and reserved offsets read 0 (R61). -/
def State.readOffset (s : State) (off : Offset) : Word :=
  match off.toNat with
  | 0x04 => s.statusWord
  | 0x08 => s.fcmd
  | 0x10 => s.logn.setWidth 32
  | 0x14 => s.blen.setWidth 32
  | 0x18 => s.sz
  | 0x1C => s.rejcnt
  | 0x20 => s.tagsWord
  | 0x28 => s.mu.extractLsb' 0 32
  | 0x2C => s.mu.extractLsb' 32 32
  | 0x30 => s.sigleaf.extractLsb' 0 32
  | 0x34 => s.sigleaf.extractLsb' 32 32
  | 0x38 => s.sigmin.extractLsb' 0 32
  | 0x3C => s.sigmin.extractLsb' 32 32
  | a => if inBB a || inPoly a then s.wordAt a else 0

/-- Replaces the low word of a 64-bit register (R35). -/
def withLow (x : F64) (v : Word) : F64 := x.extractLsb' 32 32 ++ v

/-- Replaces the high word of a 64-bit register (R35). -/
def withHigh (x : F64) (v : Word) : F64 := v ++ x.extractLsb' 0 32

/-- A write of a word to an offset that is neither `CMD` nor `CTRL`, in a state that is not faulted (R53, R56, R57, R61). -/
def State.writeStorage (s : State) (off : Offset) (v : Word) : State :=
  match off.toNat with
  | 0x14 => s.setBlen (v.setWidth 12)
  | 0x1C => s.setRejcnt v
  | 0x28 => s.setMu (withLow s.mu v)
  | 0x2C => s.setMu (withHigh s.mu v)
  | 0x30 => s.setSigleaf (withLow s.sigleaf v)
  | 0x34 => s.setSigleaf (withHigh s.sigleaf v)
  | 0x38 => s.setSigmin (withLow s.sigmin v)
  | 0x3C => s.setSigmin (withHigh s.sigmin v)
  | a =>
    if inBB a then s.store a (leBytes 4 v.toNat)
    else if inPoly a then (s.store a (leBytes 4 v.toNat)).setTag (polyReg a) .raw
    else s

/-- A write of `c` to `CMD` (R54, R90): a legal word runs as its command; an illegal one is dropped while faulted and
raises `ILLEGAL_CMD` otherwise (R77). -/
def submit (cfg : Configuration) (c : Word) (s : State) : Host.Outcome State Fault Refusal :=
  match decode c with
  | .ok i => execIn cfg i s
  | .error _ => if s.fault.isSome then .next s else .next (s.faultEntry .illegalCmd c)

/-- A write of `v` to `CTRL`: bit 0 is `SRST` (R29). -/
def State.writeCtrl (s : State) (v : Word) : State := if v.getLsbD 0 then s.applyReset else s

/-- `MemWrite(off, 4, v)` (R53): while faulted only `CTRL` is written (R60). -/
def hostWrite (cfg : Configuration) (off : Offset) (v : Word) (s : State) : Host.Outcome State Fault Refusal :=
  if off = cmdOffset then submit cfg v s
  else if off = ctrlOffset then .next (s.writeCtrl v)
  else if s.fault.isSome then .next s
  else .next (s.writeStorage off v)

/-- The bus of R51 has word addresses only. -/
def aligned (off : Offset) : Bool := off.toNat % 4 == 0

/-- One move of the outside world, in a state where no command runs. -/
def perform (cfg : Configuration) (op : HostOp) (s : State) : Host.Outcome State Fault Refusal :=
  match op with
  | .read off => if aligned off then .next (s.setRdata (some (s.readOffset off))) else .refused .misalignedAccess
  | .write off v => if aligned off then hostWrite cfg off v s else .refused .misalignedAccess
  | .rst => .next s.applyReset
  | .idle => .next s

/-- What the machine does in one step, before the step counter moves on. While a command runs the bus is blocked (R54): only
`rst` has an effect, which abandons the command (R231), and the host may let time pass. Otherwise the next move of the
outside world is made; with none the PRAU is idle and keeps its state (R222). -/
def advance (cfg : Configuration) (s : State) : Host.Outcome State Fault Refusal :=
  match s.leaf, s.inputs with
  | none, [] => .next (s.setRdata none)
  | none, op :: rest => perform cfg op ((s.setInputs rest).setRdata none)
  | some _, .rst :: rest => .next (s.setInputs rest).applyReset
  | some run, .idle :: rest => .next (((s.setInputs rest).setRdata none).leafAdvance cfg run)
  | some run, _ => .next ((s.setRdata none).leafAdvance cfg run)

/-- Moves the step counter on. -/
def ticked : Host.Outcome State Fault Refusal → Host.Outcome State Fault Refusal
  | .next s => .next s.tick
  | .fault r => .fault r
  | .refused r => .refused r

/-! The register space in the host's address space. -/

/-- A transaction of the host bus (R51). -/
inductive BusAccess where
  /-- `MemRead(addr, 4)` at a byte address of the host. -/
  | read (addr : Nat)
  /-- `MemWrite(addr, 4, v)` at a byte address of the host. -/
  | write (addr : Nat) (v : Word)
deriving DecidableEq, Repr

/-- The offset that a byte address of the host has in the 256 KiB register space at `BASE` (R5, R50); none outside it. -/
def offsetOf (cfg : Configuration) (addr : Nat) : Option Offset :=
  if cfg.base ≤ addr ∧ addr < cfg.base + 2 ^ 18 then some (BitVec.ofNat 18 (addr - cfg.base)) else none

/-- The move that a transaction is for the PRAU; a transaction outside its register space is none (log 12). -/
def hostOpOf (cfg : Configuration) (t : BusAccess) : Option HostOp :=
  match t with
  | .read addr => (offsetOf cfg addr).map .read
  | .write addr v => (offsetOf cfg addr).map fun off => .write off v

/-- `s` with the given transactions as the host's last moves. -/
def State.withAccesses (cfg : Configuration) (s : State) (ts : List BusAccess) : State :=
  s.setInputs (s.inputs ++ ts.filterMap (hostOpOf cfg))

/-- `s` with no command running and the write of the word `w` to `CMD` as the host's next move (log 1). -/
def placeCommand (s : State) (w : Word) : State :=
  (s.setLeaf none).setInputs (.write cmdOffset w :: s.inputs)

end Sys2Proof.Machine
end

