-- ==== Sys2Proof/Machine/Dispatch.lean ====
section
/-! DEFINITION. One arm per command: a direct call of its meaning, for the configuration of this hardware, which a meaning takes
where none is given. `execIn` is the same for any configuration. -/

namespace Sys2Proof.Machine

def exec (i : Instr) (s : State) : Host.Outcome State Fault Refusal :=
  match i with
  | .nop => Sys2Proof.Machine.execNop s
  | .cfg imm => Sys2Proof.Machine.execCfg imm s
  | .tag rd t => Sys2Proof.Machine.execTag rd t s
  | .mov rd rs1 => Sys2Proof.Machine.execMov rd rs1 s
  | .ntt rd rs1 => Sys2Proof.Machine.execNtt rd rs1 s
  | .intt rd rs1 => Sys2Proof.Machine.execIntt rd rs1 s
  | .addq rd rs1 rs2 => Sys2Proof.Machine.execAddq rd rs1 rs2 s
  | .subq rd rs1 rs2 => Sys2Proof.Machine.execSubq rd rs1 rs2 s
  | .negq rd rs1 => Sys2Proof.Machine.execNegq rd rs1 s
  | .muln rd rs1 rs2 => Sys2Proof.Machine.execMuln rd rs1 rs2 s
  | .divn rd rs1 rs2 => Sys2Proof.Machine.execDivn rd rs1 rs2 s
  | .mulq rd rs1 rs2 => Sys2Proof.Machine.execMulq rd rs1 rs2 s
  | .divq rd rs1 rs2 => Sys2Proof.Machine.execDivq rd rs1 rs2 s
  | .reduce rd rs1 => Sys2Proof.Machine.execReduce rd rs1 s
  | .center rd rs1 => Sys2Proof.Machine.execCenter rd rs1 s
  | .fft rd rs1 => Sys2Proof.Machine.execFft rd rs1 s
  | .ifft rd rs1 => Sys2Proof.Machine.execIfft rd rs1 s
  | .addf rd rs1 rs2 => Sys2Proof.Machine.execAddf rd rs1 rs2 s
  | .subf rd rs1 rs2 => Sys2Proof.Machine.execSubf rd rs1 rs2 s
  | .negf rd rs1 => Sys2Proof.Machine.execNegf rd rs1 s
  | .mulf rd rs1 rs2 => Sys2Proof.Machine.execMulf rd rs1 rs2 s
  | .round rd rs1 => Sys2Proof.Machine.execRound rd rs1 s
  | .samplez => Sys2Proof.Machine.execSamplez s
  | .compress rs1 imm => Sys2Proof.Machine.execCompress rs1 imm s
  | .decompress rd imm => Sys2Proof.Machine.execDecompress rd imm s

end Sys2Proof.Machine
end

