-- ==== Sys2Proof/Machine/Step.lean ====
section
/-! DEFINITION. One step of the machine, and where the host's next command stands. -/

namespace Sys2Proof.Machine

/-- One step of a PRAU with the configuration `cfg` (`10_state.md` R40): the next move of the outside world, or the running
command goes on. -/
def stepIn (cfg : Configuration) (s : State) : Host.Outcome State Fault Refusal := ticked (advance cfg s)

/-- One step of this hardware. -/
def step (s : State) : Host.Outcome State Fault Refusal := stepIn Config.prau s

/-- `s` with the command whose bits are `w` as the next write to `CMD`; a command is one 32-bit word (R70). -/
def State.withFetchWord (s : State) (_nbits w : Nat) : State := placeCommand s (BitVec.ofNat 32 w)

end Sys2Proof.Machine
end

