-- ==== Sys2Proof/Safety.lean ====
section
/-! DEFINITION. The terms claims are stated in: how a command ends, what a command that writes a register leaves alone, the
invariant of every reachable state, and the numeric and ring notions of the spec written independently of the machine. -/

namespace Sys2Proof.Safety

open Sys2Proof.Machine

/-! The opcode table (`30_encoding.md` R75, R76). -/

/-- The 25 rows: `op` and mask. -/
def opcodeRows : List (Nat × Word) :=
  [(0x00, 0xFFFFFFFF#32), (0x01, 0xFFFFF000#32), (0x02, 0xFF8FFFF8#32), (0x03, 0xFF88FFFF#32),
   (0x10, 0xFF88FFFF#32), (0x11, 0xFF88FFFF#32), (0x12, 0xFF888FFF#32), (0x13, 0xFF888FFF#32),
   (0x14, 0xFF88FFFF#32), (0x15, 0xFF888FFF#32), (0x16, 0xFF888FFF#32), (0x17, 0xFF888FFF#32),
   (0x18, 0xFF888FFF#32), (0x19, 0xFF88FFFF#32), (0x1A, 0xFF88FFFF#32), (0x20, 0xFF88FFFF#32),
   (0x21, 0xFF88FFFF#32), (0x22, 0xFF888FFF#32), (0x23, 0xFF888FFF#32), (0x24, 0xFF88FFFF#32),
   (0x25, 0xFF888FFF#32), (0x26, 0xFF88FFFF#32), (0x30, 0xFFFFFFFF#32), (0x40, 0xFFF8F000#32),
   (0x41, 0xFF8FF000#32)]

/-- The word matches the row: `c AND mask = op << 24`, and for `TAG` a tag code 1 to 5 (R75). -/
def RowMatches (row : Nat × Word) (c : Word) : Prop :=
  c &&& row.2 = BitVec.ofNat 32 row.1 <<< 24 ∧ (row.1 = 0x02 → 1 ≤ c.toNat % 8 ∧ c.toNat % 8 ≤ 5)

/-! How a command ends (`60_exceptions.md` R200). -/

/-- Executing `i` in `s` ends in fault entry (R214) with fault `f`: `STATUS.FAULT` and `FCMD` are written and nothing
else. -/
def Faults (i : Instr) (s : State) (f : PrauFault) : Prop :=
  exec i s = .next { s with fault := some f, fcmd := encode i }

/-- The faults of steps 2 and 3 of `40_control.md` R90 for a command that depends on `n` and has the given sources and
admitted source tags (R204(a), R205, R206, R212). -/
def ConfigAndTagFaults (i : Instr) (s : State) (sources : List Reg) (admitted : List (List Tag)) : Prop :=
  (s.logn = 0#4 → Faults i s .invalidParam) ∧
  (s.logn ≠ 0#4 → (∃ r ∈ sources, s.tags[r] = .e) → Faults i s .unwritten) ∧
  (s.logn ≠ 0#4 → (∀ r ∈ sources, s.tags[r] ≠ .e) → (sources.map fun r => s.tags[r]) ∉ admitted →
    Faults i s .domain)

/-- `t` is `s` after a command wrote the active lanes of `rd` (lane `j` holding `f j`), the tag of `rd` and `RES = OK`,
and nothing else: every byte outside those lanes reads as before and every other register is as before. -/
def WritesLanes (s t : State) (rd : Reg) (tag : Tag) (f : Nat → Lane) : Prop :=
  (∃ m, t = { s with mem := m, tags := s.tags.set rd.val tag rd.isLt, res := .ok }) ∧
  (∀ j < s.n, t.lane rd j = f j) ∧
  (∀ a, a < laneAddr rd 0 ∨ laneAddr rd s.n ≤ a → t.byteAt a = s.byteAt a)

/-- Every byte of the active lanes of `r` is listed: something has written it since reset. -/
def LanesListed (s : State) (r : Reg) : Prop :=
  ∀ j < s.n, ∀ b < 16, (Memory.lookup s.mem (laneAddr r j + b)).isSome

/-- What `TAG` requires of an active lane (`40_control.md` R93). -/
def MeetsTag (t : Tag) (c : Lane) : Prop :=
  (t = .z ∨ t = .q ∨ t = .n → laneWord c 1 = 0 ∧ laneWord c 2 = 0 ∧ laneWord c 3 = 0) ∧
  (t = .q ∨ t = .n → (laneWord c 0).toNat < Config.hw.q) ∧
  (t = .r → laneWord c 2 = 0 ∧ laneWord c 3 = 0)

/-- The polynomial register a command writes. -/
def destination : Instr → Option Reg
  | .nop => none
  | .cfg _ => none
  | .tag rd _ => some rd
  | .mov rd _ => some rd
  | .ntt rd _ => some rd
  | .intt rd _ => some rd
  | .addq rd _ _ => some rd
  | .subq rd _ _ => some rd
  | .negq rd _ => some rd
  | .muln rd _ _ => some rd
  | .divn rd _ _ => some rd
  | .mulq rd _ _ => some rd
  | .divq rd _ _ => some rd
  | .reduce rd _ => some rd
  | .center rd _ => some rd
  | .fft rd _ => some rd
  | .ifft rd _ => some rd
  | .addf rd _ _ => some rd
  | .subf rd _ _ => some rd
  | .negf rd _ => some rd
  | .mulf rd _ _ => some rd
  | .round rd _ => some rd
  | .samplez => none
  | .compress _ _ => none
  | .decompress rd _ => some rd

/-- The byte offsets a command may write: the active lanes of its destination, or the first `imm` bytes of `BB` for
`COMPRESS` (R184). -/
def MayWrite (i : Instr) (s : State) (a : Nat) : Prop :=
  (∃ rd, destination i = some rd ∧ laneAddr rd 0 ≤ a ∧ a < laneAddr rd s.n) ∨
  (∃ rs1 imm, i = .compress rs1 imm ∧ bbAddr 0 ≤ a ∧ a < bbAddr imm.toNat)

/-! The invariant. -/

/-- Storage lies in the two windows of `20_memory.md` R50. -/
def StorageMapped (m : Memory) : Prop := ∀ c ∈ m, inBB c.1 ∨ inPoly c.1

/-- `10_state.md` R25: the active lanes of a typed register hold values, and they are values of its tag. -/
def TagsHold (s : State) : Prop :=
  ∀ r : Reg, s.tags[r].typed → s.logn ≠ 0#4 ∧ LanesListed s r ∧ ∀ j < s.n, MeetsTag s.tags[r] (s.lane r j)

/-- What every reachable state satisfies: storage in canonical form and in the windows, `LOGN` at most 10 (R30), the tag
invariants (R25), `FCMD` zero while there is no fault (R28), and a running `SAMPLEZ` only in an unfaulted machine. -/
structure Inv (s : State) : Prop where
  canonical : Memory.wf s.mem = true
  mapped : StorageMapped s.mem
  logn : s.logn.toNat ≤ 10
  tags : TagsHold s
  fcmd : s.fault = none → s.fcmd = 0
  running : s.leaf.isSome → s.fault = none

/-- The move that the next step makes is a reset: `rst`, or a write to `CTRL` with bit 0 set that the bus is free to make
(R230). -/
def ResetNext (s : State) : Prop :=
  ∃ rest, s.inputs = .rst :: rest ∨ ∃ v : Word, v.getLsbD 0 ∧ s.leaf = none ∧ s.inputs = .write ctrlOffset v :: rest

/-! The ring (`00_scope.md` R6, R8). -/

/-- `psi_n` for `n = 2^logn` (R6). -/
def rootOf (p : Params) (n : Nat) : Nat := p.psi ^ (1024 / n) % p.q

/-- The value `Σ_{j<n} a_j · psi_n^((2k+1)·j) mod Q` (`41_ring_exact.md` R101). -/
def evaluation (p : Params) (n : Nat) (a : Nat → Nat) (k : Nat) : Nat :=
  (∑ j ∈ Finset.range n, a j * rootOf p n ^ ((2 * k + 1) * j)) % p.q

/-- Coefficient `k` of the ring product `a ⊛ b` (R8). -/
def ringProduct (p : Params) (n : Nat) (a b : Nat → Nat) (k : Nat) : Nat :=
  ((∑ i ∈ Finset.range n, ∑ j ∈ Finset.range n,
    if i + j = k then (a i * b j : Int) else if i + j = k + n then -(a i * b j : Int) else 0) % (p.q : Int)).toNat

/-! Floating point (`00_scope.md` R9, `42_ring_float.md` R131, R135, R143). -/

/-- `r` is the binary64 pattern nearest the real `t · 2^(−1074−sh)`, ties to the pattern whose fraction bit 0 is 0. -/
def NearestPattern (r : F64) (t : Int) (sh : Nat) : Prop :=
  isFinite r ∧ ∀ y : F64, isFinite y →
    |scaled r * 2 ^ sh - t| < |scaled y * 2 ^ sh - t| ∨
    |scaled r * 2 ^ sh - t| = |scaled y * 2 ^ sh - t| ∧ (scaled y = scaled r ∨ r.getLsbD 0 = false)

/-- The real `t · 2^(−1074−sh)` is out of range: it lies at or beyond the middle between the largest finite pattern and
`2^1024`. -/
def OutOfRange (t : Int) (sh : Nat) : Prop := (2 ^ 54 - 1) * 2 ^ (2044 + sh) ≤ |t|

/-- `z` is the integer nearest `val(x)`, the even one of two (R143). -/
def NearestInt (x : F64) (z : Int) : Prop :=
  isFinite x ∧ (2 * |scaled x - z * 2 ^ 1074| < 2 ^ 1074 ∨ 2 * |scaled x - z * 2 ^ 1074| = 2 ^ 1074 ∧ z % 2 = 0)

/-- The named property `FFT_RT` of a pair of transforms (R135): for finite inputs of magnitude at most 2^31 the round trip
is off by at most `10^−9` times the largest magnitude. -/
def FftRoundTrip (num : Numerics) : Prop :=
  ∀ logn, 1 ≤ logn → logn ≤ 10 → ∀ p : List F64, p.length = 2 ^ logn →
    (∀ x ∈ p, isFinite x ∧ |scaled x| ≤ 2 ^ 31 * 2 ^ 1074) →
    ∀ j, (hj : j < p.length) →
      let back := num.ifft logn ((List.range (2 ^ logn)).map (num.fft logn p)) j
      isFinite back ∧ ∃ y ∈ p, 10 ^ 9 * |scaled back - scaled p[j]| ≤ |scaled y|

/-! The ideal transforms (R133), as relations between lists of real and of complex numbers. -/

/-- `zeta_n = exp(i·π/n)` (R133), as a relation. -/
def IsZeta (n : Nat) (zeta : ℂ) : Prop := zeta = Complex.exp (Complex.I * Real.pi / n)

/-- `G` is `FFT*_n(f)`: lane `k` is the value of the polynomial `f` at `zeta_n^(2k+1)` (R133). -/
def IsIdealFft (n : Nat) (f : Nat → ℝ) (G : Nat → ℂ) : Prop :=
  ∀ zeta, IsZeta n zeta → ∀ k < n, G k = ∑ j ∈ Finset.range n, (f j : ℂ) * zeta ^ ((2 * k + 1) * j)

/-- `f` is `IFFT*_n(G)`: the real part of `(1/n) · Σ_k G_k · zeta_n^(−(2k+1)·j)` (R133). -/
def IsIdealIfft (n : Nat) (G : Nat → ℂ) (f : Nat → ℝ) : Prop :=
  ∀ zeta, IsZeta n zeta → ∀ j < n,
    f j = ((1 / (n : ℂ)) * ∑ k ∈ Finset.range n, G k * (zeta ^ ((2 * k + 1) * j))⁻¹).re

/-- Coefficient `k` of the product of `f` and `g` modulo `x^n + 1` over the reals (R144); a relation, as above. -/
def IsRealProduct (n : Nat) (f g h : Nat → ℝ) : Prop :=
  ∀ k < n, h k = ∑ i ∈ Finset.range n, ∑ j ∈ Finset.range n,
    if i + j = k then f i * g j else if i + j = k + n then -(f i * g j) else 0

/-- `x` is a finite pattern with `val(x) = v` (`00_scope.md` R9). -/
def IsValue (x : F64) (v : ℝ) : Prop := isFinite x ∧ v * 2 ^ 1074 = (scaled x : ℝ)

/-- The pair of an `F` lane stands for the complex number `z` (`10_state.md` R24). -/
def IsComplexValue (x : F64 × F64) (z : ℂ) : Prop := IsValue x.1 z.re ∧ IsValue x.2 z.im

/-- Some finite pattern has the value `v`: an operation whose exact result is `v` does not round. -/
def Representable (v : ℝ) : Prop := ∃ x : F64, IsValue x v

/-- None of the six operations of `42_ring_float.md` R142 rounds on operands with the values `z` and `w`. -/
def ExactProduct (z w : ℂ) : Prop :=
  Representable (z.re * w.re) ∧ Representable (z.im * w.im) ∧ Representable (z * w).re ∧
  Representable (z.re * w.im) ∧ Representable (z.im * w.re) ∧ Representable (z * w).im

/-! The leaf sampler (`43_sampler_leaf.md` R162). -/

/-- The attempt `att`, reading the stream from position `pos`, takes `k` bytes and ends with `verdict`; `none` is
*reject*. -/
inductive Attempts (stream : Nat → Byte) : (att : Byte → LeafStep) → (pos k : Nat) → (verdict : Option Int) → Prop where
  | accept {att pos z} : att (stream pos) = .accept z → Attempts stream att pos 1 (some z)
  | reject {att pos} : att (stream pos) = .reject → Attempts stream att pos 1 none
  | more {att pos next k verdict} : att (stream pos) = .more next → Attempts stream next (pos + 1) k verdict →
      Attempts stream att pos (k + 1) verdict

/-- From position `pos`, `rej` attempts reject and the next accepts `z`; together they take `k` bytes (R163). -/
inductive Draws (stream : Nat → Byte) (att : Byte → LeafStep) : (pos k rej : Nat) → (z : Int) → Prop where
  | accept {pos k z} : Attempts stream att pos k (some z) → Draws stream att pos k 0 z
  | again {pos k k' rej z} : Attempts stream att pos k none → Draws stream att (pos + k) k' rej z →
      Draws stream att pos (k + k') (rej + 1) z

end Sys2Proof.Safety
end

