-- ==== Sys2Proof/Certificates/Slice0/Obligations.lean ====
section
/-! DEFINITION. The statements made about the model. Each docstring names the rule of the spec it formalises. -/

open Sys2Proof Sys2Proof.Machine Sys2Proof.Safety

/-! Encoding. -/

/-- A few words of `95_test_vectors.md` T3.1 and T3.3, one per format and some illegal ones, decode as listed there. -/
def Obligations.ListedWordsDecode : Prop :=
  decode 0x30000000#32 = .ok .samplez ∧ decode 0x01000002#32 = .ok (.cfg 2) ∧
  decode 0x02700005#32 = .ok (.tag 7 .f) ∧ decode 0x41400008#32 = .ok (.decompress 4 8) ∧
  decode 0x40030008#32 = .ok (.compress 3 8) ∧ decode 0x03520000#32 = .ok (.mov 5 2) ∧
  decode 0x15223000#32 = .ok (.muln 2 2 3) ∧ decode 0x21160000#32 = .ok (.ifft 1 6) ∧
  decode 0x00000001#32 = .error .nonZeroField ∧ decode 0x02000006#32 = .error .badTagCode ∧
  decode 0x15228000#32 = .error .badRegister ∧ decode 0xFFFFFFFF#32 = .error .unassignedOp

/-- R70 to R73: every well-formed command is read back from its word, with every operand. -/
def Obligations.DecodeUndoesEncode : Prop :=
  ∀ i : Instr, WellFormed i = true → decode (encode i) = .ok i

/-- R77, R80: a word that decodes is the word of the well-formed command it decodes to, so each command has one word. -/
def Obligations.EncodeUndoesDecode : Prop :=
  ∀ (c : Word) (i : Instr), decode c = .ok i → WellFormed i = true ∧ encode i = c

/-- R75: a word is the command of a row exactly when it matches the row's mask and `op << 24`, with `TAG`'s extra condition;
every decoded word belongs to one of the 25 rows. -/
def Obligations.CommandExactlyWhenMaskMatches : Prop :=
  (∀ c : Word, ∀ row ∈ opcodeRows, (∃ i, decode c = .ok i ∧ opcodeOf i = row.1) ↔ RowMatches row c) ∧
  (∀ (c : Word) (i : Instr), decode c = .ok i → ∃ row ∈ opcodeRows, opcodeOf i = row.1)

/-! The bus, reset and status. -/

/-- What the step of an idle machine does around the host's next move. R54, R90: a write to `CMD` of a word that decodes to `i`
runs `i` on the state without that move, and then the step counter moves on. R53: every aligned write is the `hostWrite` of the
statements below. R222, R236: with no move to come, or when the host lets time pass, nothing else changes (log 25). -/
def Obligations.StepRunsDecodedCommand : Prop :=
  ∀ (s : State) (rest : List HostOp), s.leaf = none →
    (∀ (c : Word) (i : Instr), s.inputs = .write cmdOffset c :: rest → decode c = .ok i →
      step s = ticked (exec i { s with inputs := rest, rdata := none })) ∧
    (∀ (off : Offset) (v : Word), s.inputs = .write off v :: rest → off.toNat % 4 = 0 →
      step s = ticked (hostWrite Config.prau off v { s with inputs := rest, rdata := none })) ∧
    (s.inputs = [] → step s = .next { s with rdata := none, now := s.now + 1 }) ∧
    (s.inputs = .idle :: rest → step s = .next { s with inputs := rest, rdata := none, now := s.now + 1 })

/-- R77: a word that matches no row raises `ILLEGAL_CMD` and changes nothing else. -/
def Obligations.IllegalWordFaults : Prop :=
  ∀ (s : State) (c : Word) (rest : List HostOp), s.leaf = none → s.fault = none →
    s.inputs = .write cmdOffset c :: rest → (∀ row ∈ opcodeRows, ¬ RowMatches row c) →
    step s = .next { s with
      inputs := rest, rdata := none, now := s.now + 1, fault := some .illegalCmd, fcmd := c }

/-- R60: while faulted a write of any word to any offset but `CTRL` completes and changes nothing, a command among them, and a
read returns what it would return without the fault. -/
def Obligations.FaultedMachineIgnoresWrites : Prop :=
  ∀ (s : State) (f : PrauFault) (off : Offset) (rest : List HostOp), s.leaf = none → s.fault = some f →
    off.toNat % 4 = 0 →
    (∀ v : Word, off ≠ ctrlOffset → s.inputs = .write off v :: rest →
      step s = .next { s with inputs := rest, rdata := none, now := s.now + 1 }) ∧
    (s.inputs = .read off :: rest →
      step s = .next { s with inputs := rest, rdata := some (s.readOffset off), now := s.now + 1 } ∧
      (off ≠ 0x00004 → off ≠ 0x00008 →
        s.readOffset off = ({ s with fault := none, fcmd := 0 } : State).readOffset off))

/-- R214, R90: in an idle machine every command answers a next state; a faulted machine is unchanged; otherwise the command
completes without a fault, or the state is the one before plus `STATUS.FAULT` and `FCMD`, and for a `SAMPLEZ` that raises
`RANGE` an RNG stream that has advanced. -/
def Obligations.FaultsArePrecise : Prop :=
  ∀ (i : Instr) (s : State), s.leaf = none → ∃ t, exec i s = .next t ∧
    (s.fault ≠ none → t = s) ∧
    (s.fault = none → t.fault = none ∨
      (∃ f, t = { s with fault := some f, fcmd := encode i }) ∨
      (i = .samplez ∧ ∃ pos, s.rngPos < pos ∧
        t = { s with fault := some .range, fcmd := encode i, rngPos := pos }))

/-- R56: a write to word `k` of lane `j` of register `r` changes that word and the tag of `r`, which becomes `RAW`, and nothing
else; the offset then reads as the word, and before and after it reads as that word of the lane. StepRunsDecodedCommand says
that a step makes the write. -/
def Obligations.LaneWindowHoldsWords : Prop :=
  ∀ (cfg : Configuration) (s : State) (r : Reg) (j k : Nat) (off : Offset) (v : Word), j < 1024 → k < 4 →
    off.toNat = 0x20000 + r.val * 0x4000 + j * 0x10 + k * 4 →
    s.readOffset off = laneWord (s.lane r j) k ∧
    (s.fault = none → ∃ t, hostWrite cfg off v s = .next t ∧
      (∃ m, t = { s with mem := m, tags := s.tags.set r.val .raw r.isLt }) ∧
      t.readOffset off = v ∧
      ∀ a, a < off.toNat ∨ off.toNat + 4 ≤ a → t.byteAt a = s.byteAt a)

/-- R57: word `m` of the `BB` window is `BB[4m+3] ‖ BB[4m+2] ‖ BB[4m+1] ‖ BB[4m]`; a write replaces those four bytes and nothing
else, `BLEN` included. StepRunsDecodedCommand says that a step makes the write. -/
def Obligations.ByteWindowPacksFourBytes : Prop :=
  ∀ (cfg : Configuration) (s : State) (m : Nat) (off : Offset) (v : Word), m < 1024 → off.toNat = 0x1000 + 4 * m →
    s.readOffset off = s.byteAt (0x1000 + (4 * m + 3)) ++ s.byteAt (0x1000 + (4 * m + 2)) ++
      s.byteAt (0x1000 + (4 * m + 1)) ++ s.byteAt (0x1000 + 4 * m) ∧
    (s.fault = none → ∃ t, hostWrite cfg off v s = .next t ∧ (∃ mem, t = { s with mem := mem }) ∧
      (∀ i < 4, t.byteAt (0x1000 + (4 * m + i)) = v.extractLsb' (8 * i) 8) ∧
      ∀ a, a < off.toNat ∨ off.toNat + 4 ≤ a → t.byteAt a = s.byteAt a)

/-- R31, R33, R35: what a host write to each writable register does, in an unfaulted machine. StepRunsDecodedCommand says that a
step makes the write. -/
def Obligations.RegisterWritesTakeTheValue : Prop :=
  ∀ (cfg : Configuration) (s : State) (v : Word), s.fault = none →
    hostWrite cfg 0x00014 v s = .next { s with blen := v.extractLsb' 0 12 } ∧
    hostWrite cfg 0x0001C v s = .next { s with rejcnt := v } ∧
    hostWrite cfg 0x00028 v s = .next { s with mu := s.mu.extractLsb' 32 32 ++ v } ∧
    hostWrite cfg 0x0002C v s = .next { s with mu := v ++ s.mu.extractLsb' 0 32 } ∧
    hostWrite cfg 0x00030 v s = .next { s with sigleaf := s.sigleaf.extractLsb' 32 32 ++ v } ∧
    hostWrite cfg 0x00034 v s = .next { s with sigleaf := v ++ s.sigleaf.extractLsb' 0 32 } ∧
    hostWrite cfg 0x00038 v s = .next { s with sigmin := s.sigmin.extractLsb' 32 32 ++ v } ∧
    hostWrite cfg 0x0003C v s = .next { s with sigmin := v ++ s.sigmin.extractLsb' 0 32 }

/-- R61: reserved offsets and write-only registers read 0; writes to reserved offsets and read-only registers are ignored.
StepRunsDecodedCommand says that a step makes the write. -/
def Obligations.ReservedOffsetsAreInert : Prop :=
  ∀ (cfg : Configuration) (s : State) (off : Offset) (v : Word),
    (off.toNat = 0x24 ∨ 0x40 ≤ off.toNat ∧ off.toNat < 0x1000 ∨ 0x2000 ≤ off.toNat ∧ off.toNat < 0x20000 →
      s.readOffset off = 0 ∧ hostWrite cfg off v s = .next s) ∧
    (off.toNat = 0x00 ∨ off.toNat = 0x0C → s.readOffset off = 0) ∧
    (off.toNat = 0x04 ∨ off.toNat = 0x08 ∨ off.toNat = 0x10 ∨ off.toNat = 0x18 ∨ off.toNat = 0x20 →
      hostWrite cfg off v s = .next s)

/-- R52, R27, R28, R30 to R35: a read puts the register's value on the bus, unused bits zero, and changes nothing. -/
def Obligations.ReadsReturnRegisters : Prop :=
  ∀ (s : State) (off : Offset) (rest : List HostOp), s.leaf = none → off.toNat % 4 = 0 →
    s.inputs = .read off :: rest →
    step s = .next { s with inputs := rest, rdata := some (s.readOffset off), now := s.now + 1 } ∧
    (off.toNat = 0x04 → (s.readOffset off).toNat =
      (match s.fault with
        | none => 0
        | some .illegalCmd => 1
        | some .invalidParam => 2
        | some .unwritten => 3
        | some .domain => 4
        | some .divByZero => 5
        | some .range => 6) +
      16 * (match s.res with
        | .ok => 0
        | .overflow => 1
        | .malformed => 2)) ∧
    (off.toNat = 0x08 → s.readOffset off = s.fcmd) ∧
    (off.toNat = 0x10 → (s.readOffset off).toNat = s.logn.toNat) ∧
    (off.toNat = 0x14 → (s.readOffset off).toNat = s.blen.toNat) ∧
    (off.toNat = 0x18 → s.readOffset off = s.sz) ∧
    (off.toNat = 0x1C → s.readOffset off = s.rejcnt) ∧
    (off.toNat = 0x20 → ∀ r : Reg, (s.readOffset off).toNat / 16 ^ r.val % 16 = s.tags[r].code) ∧
    (off.toNat = 0x28 → s.readOffset off = s.mu.extractLsb' 0 32) ∧
    (off.toNat = 0x2C → s.readOffset off = s.mu.extractLsb' 32 32) ∧
    (off.toNat = 0x30 → s.readOffset off = s.sigleaf.extractLsb' 0 32) ∧
    (off.toNat = 0x34 → s.readOffset off = s.sigleaf.extractLsb' 32 32) ∧
    (off.toNat = 0x38 → s.readOffset off = s.sigmin.extractLsb' 0 32) ∧
    (off.toNat = 0x3C → s.readOffset off = s.sigmin.extractLsb' 32 32)

/-- R29: a write to `CTRL` with bit 0 set is the reset that `rst` makes, faulted or not; with bit 0 clear it does nothing. -/
def Obligations.CtrlBitZeroResets : Prop :=
  ∀ (s : State) (v : Word) (rest : List HostOp), s.leaf = none → s.inputs = .write ctrlOffset v :: rest →
    (v.getLsbD 0 = true → step s = step { s with inputs := .rst :: rest }) ∧
    (v.getLsbD 0 = false → step s = .next { s with inputs := rest, rdata := none, now := s.now + 1 })

/-- R231: what reset clears, also while a command runs; the RNG stream stays where it is. That nothing is known of lanes and
`BB` afterwards is R231's rule for a model. -/
def Obligations.ResetClearsState : Prop :=
  ∀ (s : State) (rest : List HostOp), s.inputs = .rst :: rest → ∃ t, step s = .next t ∧
    (∀ r : Reg, t.tags[r] = .e) ∧ t.logn = 0 ∧ t.blen = 0 ∧ t.fault = none ∧ t.res = .ok ∧ t.fcmd = 0 ∧ t.sz = 0 ∧
    t.rejcnt = 0 ∧ t.mu = 0 ∧ t.sigleaf = 0 ∧ t.sigmin = 0 ∧ t.busy = false ∧ t.rngPos = s.rngPos ∧
    t.inputs = rest ∧ ∀ a, t.byteAt a = Config.unwritten t.now a

/-- R41: the values after reset that the spec gives. -/
def Obligations.ResetValues : Prop :=
  (∀ r : Reg, State.reset.tags[r] = .e) ∧ State.reset.tagsWord = 0 ∧ State.reset.blen = 0 ∧ State.reset.logn = 0 ∧
  State.reset.statusWord = 0 ∧ State.reset.fcmd = 0 ∧ State.reset.sz = 0 ∧ State.reset.rejcnt = 0 ∧
  State.reset.mu = 0 ∧ State.reset.sigleaf = 0 ∧ State.reset.sigmin = 0 ∧ State.reset.busy = false

/-- R54, R241, R163: while a command runs, a read or a write of the host waits: it stays the next move; letting time pass is the one
move that is used up. The step goes on with the loop of the draw (LeafLoopFollowsAttempts) from where `run` left it. If the loop
has not ended, its new place is stored and no register changes; if it ends, the machine commits its integer with its rejected
attempts, or raises `RANGE`, and nothing else. That a draw may spread over steps is the model's own (log 9). -/
def Obligations.RunningCommandBlocksBus : Prop :=
  ∀ (s : State) (run : LeafRun) (att : Byte → LeafStep), s.leaf = some run → s.inputs.head? ≠ some .rst →
    att = Config.leafAttempt s.mu (if scaled s.sigmin ≤ scaled s.sigleaf then s.sigleaf else s.sigmin) →
    ∃ t, step s = .next t ∧
      (s.inputs.head? ≠ some .idle → t.inputs = s.inputs) ∧
      (s.inputs.head? = some .idle → t.inputs = s.inputs.tail) ∧
      (∀ rej taken pos,
        leafLoop att Config.rngByte (Config.rngDelivers s.now) (awaiting att run.taken) run.taken run.rej s.rngPos =
            .pending rej taken pos →
          t = { s with leaf := some ⟨rej, taken⟩, rngPos := pos, inputs := t.inputs, rdata := none, now := s.now + 1 }) ∧
      (∀ z rej pos,
        leafLoop att Config.rngByte (Config.rngDelivers s.now) (awaiting att run.taken) run.taken run.rej s.rngPos =
            .accepted z rej pos →
          t = (if -2 ^ 31 ≤ z ∧ z ≤ 2 ^ 31 - 1 then
            { s with sz := BitVec.ofInt 32 z, rejcnt := s.rejcnt + BitVec.ofNat 32 rej, res := .ok,
                     leaf := none, rngPos := pos, inputs := t.inputs, rdata := none, now := s.now + 1 }
          else
            { s with fault := some .range, fcmd := 0x30000000#32,
                     leaf := none, rngPos := pos, inputs := t.inputs, rdata := none, now := s.now + 1 }))

/-! Typed lanes and the control commands. -/

/-- R24: the words each typed view writes, and the value it reads back. -/
def Obligations.TypedViewsReadBack : Prop :=
  (∀ z : Int, -2 ^ 31 ≤ z → z ≤ 2 ^ 31 - 1 → zOf (zLane z) = z ∧ laneWord (zLane z) 0 = BitVec.ofInt 32 z ∧
    ∀ k, 1 ≤ k → k < 4 → laneWord (zLane z) k = 0) ∧
  (∀ v < 2 ^ 32, qOf (qLane v) = v ∧ (laneWord (qLane v) 0).toNat = v ∧
    ∀ k, 1 ≤ k → k < 4 → laneWord (qLane v) k = 0) ∧
  (∀ x : F64, rOf (rLane x) = x ∧ laneWord (rLane x) 0 = x.extractLsb' 0 32 ∧
    laneWord (rLane x) 1 = x.extractLsb' 32 32 ∧ laneWord (rLane x) 2 = 0 ∧ laneWord (rLane x) 3 = 0) ∧
  (∀ re im : F64, fOf (fLane (re, im)) = (re, im) ∧ laneWord (fLane (re, im)) 0 = re.extractLsb' 0 32 ∧
    laneWord (fLane (re, im)) 1 = re.extractLsb' 32 32 ∧ laneWord (fLane (re, im)) 2 = im.extractLsb' 0 32 ∧
    laneWord (fLane (re, im)) 3 = im.extractLsb' 32 32)

/-- R91: `NOP` sets `RES = OK` with any `LOGN` and changes nothing else; it is dropped while faulted; a word with `op` 0 and another
bit set is illegal. -/
def Obligations.NopSetsResultOk : Prop :=
  encode .nop = 0x00000000#32 ∧
  (∀ s : State, s.fault = none → exec .nop s = .next { s with res := .ok }) ∧
  (∀ s : State, s.fault ≠ none → exec .nop s = .next s) ∧
  (∀ c : Word, opField c = 0 → c ≠ 0 → decode c = .error .nonZeroField)

/-- R92: `CFG imm` with `imm` in 1 to 10 sets `LOGN`, empties every tag and changes nothing else; outside it faults. -/
def Obligations.CfgSelectsDimension : Prop :=
  ∀ (s : State) (imm : BitVec 12), s.fault = none →
    encode (.cfg imm) = wordOf 0x01 0 0 0 imm.toNat ∧
    (1 ≤ imm.toNat → imm.toNat ≤ 10 → exec (.cfg imm) s = .next { s with
      logn := BitVec.ofNat 4 imm.toNat, tags := Vector.replicate 8 .e, res := .ok }) ∧
    (imm.toNat < 1 ∨ 10 < imm.toNat → Faults (.cfg imm) s .invalidParam)

/-- R93: `TAG` types a `RAW` register whose active lanes meet the tag, without changing a lane; a lane that does not meet it is
`RANGE`. -/
def Obligations.TagTypesHostData : Prop :=
  ∀ (s : State) (rd : Reg) (t : Tag), t.typed = true → s.fault = none →
    encode (.tag rd t) = wordOf 0x02 rd 0 0 t.code ∧
    ConfigAndTagFaults (.tag rd t) s [rd] [[.raw]] ∧
    (s.logn ≠ 0#4 → s.tags[rd] = .raw →
      ((∀ j < s.n, MeetsTag t (s.lane rd j)) → ∃ t', exec (.tag rd t) s = .next t' ∧
        WritesLanes s t' rd t (s.lane rd)) ∧
      ((∃ j < s.n, ¬ MeetsTag t (s.lane rd j)) → Faults (.tag rd t) s .range))

/-- R94: `MOV` copies the active lanes and the tag of a typed register. -/
def Obligations.MovCopiesRegister : Prop :=
  ∀ (s : State) (rd rs1 : Reg), s.fault = none →
    encode (.mov rd rs1) = wordOf 0x03 rd rs1 0 0 ∧
    ConfigAndTagFaults (.mov rd rs1) s [rs1] [[.z], [.q], [.n], [.r], [.f]] ∧
    (s.logn ≠ 0#4 → s.tags[rs1].typed = true → ∃ t, exec (.mov rd rs1) s = .next t ∧
      WritesLanes s t rd s.tags[rs1] (s.lane rs1))

/-! Exact ring commands. -/

/-- R103 with R101: lane `k` of the result is the value of the polynomial at `psi_n^(2k+1)`. -/
def Obligations.NttEvaluatesAtRoots : Prop :=
  ∀ (s : State) (rd rs1 : Reg), s.fault = none →
    encode (.ntt rd rs1) = wordOf 0x10 rd rs1 0 0 ∧
    ConfigAndTagFaults (.ntt rd rs1) s [rs1] [[.q]] ∧
    (s.logn ≠ 0#4 → s.tags[rs1] = .q → ∃ t, exec (.ntt rd rs1) s = .next t ∧
      WritesLanes s t rd .n fun k =>
        qLane ((∑ j ∈ Finset.range s.n,
          qOf (s.lane rs1 j) * rootOf Config.hw s.n ^ ((2 * k + 1) * j)) % Config.hw.q))

/-- R104 with R102's formula: lane `j` of the result is `ninv_n · Σ_k A_k · psi_n^(−(2k+1)·j) mod Q`, for the inverses `v` of `n` and `w` of
`psi_n` modulo `Q`. -/
def Obligations.InttInterpolates : Prop :=
  ∀ (s : State) (rd rs1 : Reg), s.fault = none →
    encode (.intt rd rs1) = wordOf 0x11 rd rs1 0 0 ∧
    ConfigAndTagFaults (.intt rd rs1) s [rs1] [[.n]] ∧
    (s.logn ≠ 0#4 → s.tags[rs1] = .n → ∀ v w : Nat, v * s.n % Config.hw.q = 1 →
      w * rootOf Config.hw s.n % Config.hw.q = 1 → ∃ t, exec (.intt rd rs1) s = .next t ∧
      WritesLanes s t rd .q fun j =>
        qLane (v * (∑ k ∈ Finset.range s.n, qOf (s.lane rs1 k) * w ^ ((2 * k + 1) * j)) % Config.hw.q))

/-- R106: `ADDQ` adds lane by lane modulo `Q`. -/
def Obligations.AddqAddsLanes : Prop :=
  ∀ (s : State) (rd rs1 rs2 : Reg), s.fault = none →
    encode (.addq rd rs1 rs2) = wordOf 0x12 rd rs1 rs2 0 ∧
    ConfigAndTagFaults (.addq rd rs1 rs2) s [rs1, rs2] [[.q, .q], [.n, .n]] ∧
    (s.logn ≠ 0#4 → s.tags[rs1] = .q ∧ s.tags[rs2] = .q ∨ s.tags[rs1] = .n ∧ s.tags[rs2] = .n →
      ∃ t, exec (.addq rd rs1 rs2) s = .next t ∧ WritesLanes s t rd s.tags[rs1] fun j =>
        qLane ((qOf (s.lane rs1 j) + qOf (s.lane rs2 j)) % Config.hw.q))

/-- R107: `SUBQ` subtracts lane by lane modulo `Q`; the minuend is `rs1`. -/
def Obligations.SubqSubtractsLanes : Prop :=
  ∀ (s : State) (rd rs1 rs2 : Reg), s.fault = none →
    encode (.subq rd rs1 rs2) = wordOf 0x13 rd rs1 rs2 0 ∧
    ConfigAndTagFaults (.subq rd rs1 rs2) s [rs1, rs2] [[.q, .q], [.n, .n]] ∧
    (s.logn ≠ 0#4 → s.tags[rs1] = .q ∧ s.tags[rs2] = .q ∨ s.tags[rs1] = .n ∧ s.tags[rs2] = .n →
      ∃ t, exec (.subq rd rs1 rs2) s = .next t ∧ WritesLanes s t rd s.tags[rs1] fun j =>
        qLane (((qOf (s.lane rs1 j) : Int) - qOf (s.lane rs2 j)) % (Config.hw.q : Int)).toNat)

/-- R108: `NEGQ` keeps 0 and takes `v > 0` to `Q − v`, for lanes in `[0, Q)` (R25). -/
def Obligations.NegqNegatesLanes : Prop :=
  ∀ (s : State) (rd rs1 : Reg), s.fault = none →
    encode (.negq rd rs1) = wordOf 0x14 rd rs1 0 0 ∧
    ConfigAndTagFaults (.negq rd rs1) s [rs1] [[.q], [.n]] ∧
    (s.logn ≠ 0#4 → s.tags[rs1] = .q ∨ s.tags[rs1] = .n → (∀ j < s.n, qOf (s.lane rs1 j) < Config.hw.q) →
      ∃ t, exec (.negq rd rs1) s = .next t ∧ WritesLanes s t rd s.tags[rs1] fun j =>
        qLane (if qOf (s.lane rs1 j) = 0 then 0 else Config.hw.q - qOf (s.lane rs1 j)))

/-- R109: `MULN` multiplies NTT values lane by lane modulo `Q`. -/
def Obligations.MulnMultipliesLanes : Prop :=
  ∀ (s : State) (rd rs1 rs2 : Reg), s.fault = none →
    encode (.muln rd rs1 rs2) = wordOf 0x15 rd rs1 rs2 0 ∧
    ConfigAndTagFaults (.muln rd rs1 rs2) s [rs1, rs2] [[.n, .n]] ∧
    (s.logn ≠ 0#4 → s.tags[rs1] = .n → s.tags[rs2] = .n →
      ∃ t, exec (.muln rd rs1 rs2) s = .next t ∧ WritesLanes s t rd .n fun k =>
        qLane (qOf (s.lane rs1 k) * qOf (s.lane rs2 k) % Config.hw.q))

/-- R110: `DIVN` writes the quotients `y` in `[0, Q)` with `y · divisor = dividend` modulo `Q`; one zero lane of the divisor is
`DIV_BY_ZERO`. The divisor's lanes are in `[0, Q)` (R25). -/
def Obligations.DivnDividesLanes : Prop :=
  ∀ (s : State) (rd rs1 rs2 : Reg), s.fault = none →
    encode (.divn rd rs1 rs2) = wordOf 0x16 rd rs1 rs2 0 ∧
    ConfigAndTagFaults (.divn rd rs1 rs2) s [rs1, rs2] [[.n, .n]] ∧
    (s.logn ≠ 0#4 → s.tags[rs1] = .n → s.tags[rs2] = .n →
      ((∃ k < s.n, qOf (s.lane rs2 k) = 0) → Faults (.divn rd rs1 rs2) s .divByZero) ∧
      ((∀ k < s.n, 0 < qOf (s.lane rs2 k) ∧ qOf (s.lane rs2 k) < Config.hw.q) →
        ∃ (t : State) (y : Nat → Nat), exec (.divn rd rs1 rs2) s = .next t ∧ WritesLanes s t rd .n (fun k => qLane (y k)) ∧
          ∀ k < s.n, y k < Config.hw.q ∧
            y k * qOf (s.lane rs2 k) % Config.hw.q = qOf (s.lane rs1 k) % Config.hw.q))

/-- R111: `MULQ` writes the ring product, the negacyclic convolution of R8, for `LOGN` at most 10 (R30). -/
def Obligations.MulqIsRingProduct : Prop :=
  ∀ (s : State) (rd rs1 rs2 : Reg), s.fault = none → s.logn.toNat ≤ 10 →
    encode (.mulq rd rs1 rs2) = wordOf 0x17 rd rs1 rs2 0 ∧
    ConfigAndTagFaults (.mulq rd rs1 rs2) s [rs1, rs2] [[.q, .q]] ∧
    (s.logn ≠ 0#4 → s.tags[rs1] = .q → s.tags[rs2] = .q →
      ∃ t, exec (.mulq rd rs1 rs2) s = .next t ∧ WritesLanes s t rd .q fun k =>
        qLane (ringProduct Config.hw s.n (fun j => qOf (s.lane rs1 j)) (fun j => qOf (s.lane rs2 j)) k))

/-- R112: `DIVQ` writes the unique element `c` of `R_Q` with `c ⊛ b = a`; a zero among the NTT values of `b` is `DIV_BY_ZERO`. `LOGN` is at
most 10 (R30). -/
def Obligations.DivqIsRingQuotient : Prop :=
  ∀ (s : State) (rd rs1 rs2 : Reg), s.fault = none → s.logn.toNat ≤ 10 →
    encode (.divq rd rs1 rs2) = wordOf 0x18 rd rs1 rs2 0 ∧
    ConfigAndTagFaults (.divq rd rs1 rs2) s [rs1, rs2] [[.q, .q]] ∧
    (s.logn ≠ 0#4 → s.tags[rs1] = .q → s.tags[rs2] = .q →
      ((∃ k < s.n, evaluation Config.hw s.n (fun j => qOf (s.lane rs2 j)) k = 0) →
        Faults (.divq rd rs1 rs2) s .divByZero) ∧
      ((∀ k < s.n, evaluation Config.hw s.n (fun j => qOf (s.lane rs2 j)) k ≠ 0) →
        ∃ (t : State) (c : Nat → Nat), exec (.divq rd rs1 rs2) s = .next t ∧ WritesLanes s t rd .q (fun k => qLane (c k)) ∧
          (∀ k < s.n, c k < Config.hw.q) ∧
          (∀ k < s.n, ringProduct Config.hw s.n c (fun j => qOf (s.lane rs2 j)) k =
            qOf (s.lane rs1 k) % Config.hw.q) ∧
          ∀ c' : Nat → Nat, (∀ k < s.n, c' k < Config.hw.q) →
            (∀ k < s.n, ringProduct Config.hw s.n c' (fun j => qOf (s.lane rs2 j)) k =
              qOf (s.lane rs1 k) % Config.hw.q) →
            ∀ k < s.n, c' k = c k))

/-- R113: `REDUCE` takes signed integers to their remainders in `[0, Q)`. -/
def Obligations.ReduceTakesRemainders : Prop :=
  ∀ (s : State) (rd rs1 : Reg), s.fault = none →
    encode (.reduce rd rs1) = wordOf 0x19 rd rs1 0 0 ∧
    ConfigAndTagFaults (.reduce rd rs1) s [rs1] [[.z]] ∧
    (s.logn ≠ 0#4 → s.tags[rs1] = .z → ∃ t, exec (.reduce rd rs1) s = .next t ∧
      WritesLanes s t rd .q fun j => qLane (zOf (s.lane rs1 j) % (Config.hw.q : Int)).toNat)

/-- R114: `CENTER` takes a residue `v` in `[0, Q)` to `v` when `2v ≤ Q` and to `v − Q` otherwise. -/
def Obligations.CenterTakesCentredValues : Prop :=
  ∀ (s : State) (rd rs1 : Reg), s.fault = none →
    encode (.center rd rs1) = wordOf 0x1A rd rs1 0 0 ∧
    ConfigAndTagFaults (.center rd rs1) s [rs1] [[.q]] ∧
    (s.logn ≠ 0#4 → s.tags[rs1] = .q → (∀ j < s.n, qOf (s.lane rs1 j) < Config.hw.q) →
      ∃ t, exec (.center rd rs1) s = .next t ∧ (WritesLanes s t rd .z fun j => zLane
        (if 2 * qOf (s.lane rs1 j) ≤ Config.hw.q then (qOf (s.lane rs1 j) : Int)
          else (qOf (s.lane rs1 j) : Int) - Config.hw.q)) ∧
        ∀ j < s.n, -((Config.hw.q : Int) - 1) ≤ 2 * zOf (t.lane rd j) ∧
          2 * zOf (t.lane rd j) ≤ (Config.hw.q : Int) - 1)

/-! Floating-point commands. -/

/-- R137: `FFT` writes the hardware transform of the lanes, integers and residues read exactly, reals as they are. -/
def Obligations.FftTransformsLanes : Prop :=
  ∀ (s : State) (rd rs1 : Reg), s.fault = none →
    encode (.fft rd rs1) = wordOf 0x20 rd rs1 0 0 ∧
    ConfigAndTagFaults (.fft rd rs1) s [rs1] [[.z], [.q], [.r]] ∧
    (s.logn ≠ 0#4 → s.tags[rs1] = .z ∨ s.tags[rs1] = .q ∨ s.tags[rs1] = .r →
      ∃ t, ∃ p : List F64, exec (.fft rd rs1) s = .next t ∧ p.length = s.n ∧
        (∀ j, (h : j < p.length) →
          (s.tags[rs1] = .z → isFinite p[j] ∧ scaled p[j] = zOf (s.lane rs1 j) * 2 ^ 1074 ∧
            fpSign p[j] = decide (zOf (s.lane rs1 j) < 0)) ∧
          (s.tags[rs1] = .q → isFinite p[j] ∧ scaled p[j] = qOf (s.lane rs1 j) * 2 ^ 1074 ∧
            fpSign p[j] = false) ∧
          (s.tags[rs1] = .r → p[j] = rOf (s.lane rs1 j))) ∧
        WritesLanes s t rd .f fun k => fLane (Config.num.fft s.logn.toNat p k))

/-- R138: `IFFT` writes the hardware inverse transform of the lanes, as reals. -/
def Obligations.IfftTransformsLanes : Prop :=
  ∀ (s : State) (rd rs1 : Reg), s.fault = none →
    encode (.ifft rd rs1) = wordOf 0x21 rd rs1 0 0 ∧
    ConfigAndTagFaults (.ifft rd rs1) s [rs1] [[.f]] ∧
    (s.logn ≠ 0#4 → s.tags[rs1] = .f → ∃ t, exec (.ifft rd rs1) s = .next t ∧
      WritesLanes s t rd .r fun j =>
        rLane (Config.num.ifft s.logn.toNat ((List.range s.n).map fun k => fOf (s.lane rs1 k)) j))

/-- R139: `ADDF` adds reals, or both parts of complex values, lane by lane; a NaN result has an unspecified NaN pattern. -/
def Obligations.AddfAddsLanes : Prop :=
  ∀ (s : State) (rd rs1 rs2 : Reg), s.fault = none →
    encode (.addf rd rs1 rs2) = wordOf 0x22 rd rs1 rs2 0 ∧
    ConfigAndTagFaults (.addf rd rs1 rs2) s [rs1, rs2] [[.r, .r], [.f, .f]] ∧
    (s.logn ≠ 0#4 →
      (s.tags[rs1] = .r → s.tags[rs2] = .r → ∃ (t : State) (nan : Nat → F64), exec (.addf rd rs1 rs2) s = .next t ∧
        (∀ j, isNan (nan j) = true) ∧
        WritesLanes s t rd .r fun j => rLane (fadd (nan j) (rOf (s.lane rs1 j)) (rOf (s.lane rs2 j)))) ∧
      (s.tags[rs1] = .f → s.tags[rs2] = .f → ∃ (t : State) (nan nan' : Nat → F64), exec (.addf rd rs1 rs2) s = .next t ∧
        (∀ j, isNan (nan j) = true ∧ isNan (nan' j) = true) ∧
        WritesLanes s t rd .f fun j =>
          fLane (fadd (nan j) (fOf (s.lane rs1 j)).1 (fOf (s.lane rs2 j)).1,
            fadd (nan' j) (fOf (s.lane rs1 j)).2 (fOf (s.lane rs2 j)).2)))

/-- R140: `SUBF` subtracts as `ADDF` adds; the minuend is `rs1`. -/
def Obligations.SubfSubtractsLanes : Prop :=
  ∀ (s : State) (rd rs1 rs2 : Reg), s.fault = none →
    encode (.subf rd rs1 rs2) = wordOf 0x23 rd rs1 rs2 0 ∧
    ConfigAndTagFaults (.subf rd rs1 rs2) s [rs1, rs2] [[.r, .r], [.f, .f]] ∧
    (s.logn ≠ 0#4 →
      (s.tags[rs1] = .r → s.tags[rs2] = .r → ∃ (t : State) (nan : Nat → F64), exec (.subf rd rs1 rs2) s = .next t ∧
        (∀ j, isNan (nan j) = true) ∧
        WritesLanes s t rd .r fun j => rLane (fsub (nan j) (rOf (s.lane rs1 j)) (rOf (s.lane rs2 j)))) ∧
      (s.tags[rs1] = .f → s.tags[rs2] = .f → ∃ (t : State) (nan nan' : Nat → F64), exec (.subf rd rs1 rs2) s = .next t ∧
        (∀ j, isNan (nan j) = true ∧ isNan (nan' j) = true) ∧
        WritesLanes s t rd .f fun j =>
          fLane (fsub (nan j) (fOf (s.lane rs1 j)).1 (fOf (s.lane rs2 j)).1,
            fsub (nan' j) (fOf (s.lane rs1 j)).2 (fOf (s.lane rs2 j)).2)))

/-- R141: `NEGF` flips bit 63 of each real, or of both parts of each complex value, for every pattern; words 2 and 3 of a real
lane stay zero. -/
def Obligations.NegfFlipsSigns : Prop :=
  ∀ (s : State) (rd rs1 : Reg), s.fault = none →
    encode (.negf rd rs1) = wordOf 0x24 rd rs1 0 0 ∧
    ConfigAndTagFaults (.negf rd rs1) s [rs1] [[.r], [.f]] ∧
    (s.logn ≠ 0#4 →
      (s.tags[rs1] = .r → ∃ t, exec (.negf rd rs1) s = .next t ∧ WritesLanes s t rd .r fun j =>
        rLane (rOf (s.lane rs1 j) ^^^ 0x8000000000000000#64)) ∧
      (s.tags[rs1] = .f → ∃ t, exec (.negf rd rs1) s = .next t ∧ WritesLanes s t rd .f fun j =>
        fLane ((fOf (s.lane rs1 j)).1 ^^^ 0x8000000000000000#64, (fOf (s.lane rs1 j)).2 ^^^ 0x8000000000000000#64)))

/-- R142: `MULF` makes the complex product of each lane with six separately rounded operations; each of the six has its own
unspecified NaN pattern. -/
def Obligations.MulfMultipliesLanes : Prop :=
  ∀ (s : State) (rd rs1 rs2 : Reg), s.fault = none →
    encode (.mulf rd rs1 rs2) = wordOf 0x25 rd rs1 rs2 0 ∧
    ConfigAndTagFaults (.mulf rd rs1 rs2) s [rs1, rs2] [[.f, .f]] ∧
    (s.logn ≠ 0#4 → s.tags[rs1] = .f → s.tags[rs2] = .f →
      ∃ (t : State) (nan : Nat → Nat → F64), exec (.mulf rd rs1 rs2) s = .next t ∧
        (∀ k i, isNan (nan k i) = true) ∧
        WritesLanes s t rd .f fun k => fLane
          (fsub (nan k 2) (fmul (nan k 0) (fOf (s.lane rs1 k)).1 (fOf (s.lane rs2 k)).1)
              (fmul (nan k 1) (fOf (s.lane rs1 k)).2 (fOf (s.lane rs2 k)).2),
            fadd (nan k 5) (fmul (nan k 3) (fOf (s.lane rs1 k)).1 (fOf (s.lane rs2 k)).2)
              (fmul (nan k 4) (fOf (s.lane rs1 k)).2 (fOf (s.lane rs2 k)).1)))

/-- R143: `ROUND` writes the nearest integers, ties to even; a NaN, an infinity or an integer out of range is `RANGE`. -/
def Obligations.RoundTakesNearestIntegers : Prop :=
  ∀ (s : State) (rd rs1 : Reg), s.fault = none →
    encode (.round rd rs1) = wordOf 0x26 rd rs1 0 0 ∧
    ConfigAndTagFaults (.round rd rs1) s [rs1] [[.r]] ∧
    (s.logn ≠ 0#4 → s.tags[rs1] = .r →
      ((∀ j < s.n, ∃ z, NearestInt (rOf (s.lane rs1 j)) z ∧ -2 ^ 31 ≤ z ∧ z ≤ 2 ^ 31 - 1) →
        ∃ (t : State) (z : Nat → Int), exec (.round rd rs1) s = .next t ∧ (∀ j < s.n, NearestInt (rOf (s.lane rs1 j)) (z j)) ∧
          WritesLanes s t rd .z fun j => zLane (z j)) ∧
      ((∃ j < s.n, ¬ ∃ z, NearestInt (rOf (s.lane rs1 j)) z ∧ -2 ^ 31 ≤ z ∧ z ≤ 2 ^ 31 - 1) →
        Faults (.round rd rs1) s .range))

/-! The sampler and the codec. -/

/-- R163 with R161, R162, R164: `SAMPLEZ` runs with any `LOGN`; operands that are not finite or a deviation that is not positive
are `INVALID_PARAM`, before a byte is taken. Otherwise either the bytes the port delivers reach an accepting attempt: then it writes
`SZ` and `RES` and adds the rejected attempts to `REJCNT`, or raises `RANGE`, and it takes exactly the bytes of its attempts; or they
do not: then it is still running, has taken them, and keeps the place that the loop has come to, from which
RunningCommandBlocksBus says that the next step goes on (log 9, the model's own). -/
def Obligations.SamplezDrawsOneInteger : Prop :=
  ∀ (s : State) (sigma : F64), s.fault = none → s.leaf = none →
    sigma = (if scaled s.sigmin ≤ scaled s.sigleaf then s.sigleaf else s.sigmin) →
    encode .samplez = 0x30000000#32 ∧
    (isFinite s.mu = false ∨ isFinite s.sigleaf = false ∨ isFinite s.sigmin = false ∨ scaled sigma ≤ 0 →
      Faults .samplez s .invalidParam) ∧
    (isFinite s.mu = true → isFinite s.sigleaf = true → isFinite s.sigmin = true → 0 < scaled sigma →
      ∃ t, exec .samplez s = .next t ∧
        ((∃ k rej z, Draws Config.rngByte (Config.leafAttempt s.mu sigma) s.rngPos k rej z ∧
            k ≤ Config.rngDelivers s.now ∧
            t = (if -2 ^ 31 ≤ z ∧ z ≤ 2 ^ 31 - 1 then
              { s with sz := BitVec.ofInt 32 z, rejcnt := s.rejcnt + BitVec.ofNat 32 rej, res := .ok,
                       rngPos := s.rngPos + k }
              else { s with fault := some .range, fcmd := 0x30000000#32, rngPos := s.rngPos + k })) ∨
          ((¬ ∃ k rej z, Draws Config.rngByte (Config.leafAttempt s.mu sigma) s.rngPos k rej z ∧
              k ≤ Config.rngDelivers s.now) ∧
            ∃ rej taken,
              leafLoop (Config.leafAttempt s.mu sigma) Config.rngByte (Config.rngDelivers s.now)
                  (Config.leafAttempt s.mu sigma) [] 0 s.rngPos =
                .pending rej taken (s.rngPos + Config.rngDelivers s.now) ∧
              t = { s with leaf := some ⟨rej, taken⟩, rngPos := s.rngPos + Config.rngDelivers s.now })))

/-- R163, R164, R166 for the loop, whatever the attempt and the stream: given enough bytes it ends with the integer and the
rejections of the first accepting attempt and takes exactly the bytes of the attempts; given fewer it has not ended; and a loop
that is given its bytes in two parts ends as if it had been given them at once. -/
def Obligations.LeafLoopFollowsAttempts : Prop :=
  ∀ (att : Byte → LeafStep) (stream : Nat → Byte) (pos : Nat),
    (∀ k rej z, Draws stream att pos k rej z →
      (∀ fuel, k ≤ fuel → leafLoop att stream fuel att [] 0 pos = .accepted z rej (pos + k)) ∧
      (∀ fuel < k, ∃ rej' taken, leafLoop att stream fuel att [] 0 pos = .pending rej' taken (pos + fuel))) ∧
    (∀ f g rej taken pos', leafLoop att stream f att [] 0 pos = .pending rej taken pos' →
      leafLoop att stream (f + g) att [] 0 pos =
        leafLoop att stream g (awaiting att taken) taken rej pos')

/-- R184 with R181, R183: when the codes fit `8·imm` bits, `COMPRESS` stores exactly `imm` bytes, bit `t` of the stream in byte
`t/8` at position `7 − t mod 8` and zeros after the codes, and sets `BLEN`; when they do not, only the result code changes. What
the bits of a code are is said in CompressFitsOrOverflows. -/
def Obligations.CompressStoresBitstream : Prop :=
  ∀ (s : State) (rs1 : Reg) (imm : BitVec 12), s.fault = none →
    encode (.compress rs1 imm) = wordOf 0x40 0 rs1 0 imm.toNat ∧
    ConfigAndTagFaults (.compress rs1 imm) s [rs1] [[.z]] ∧
    (s.logn ≠ 0#4 → s.tags[rs1] = .z → ∀ bits : List Bool,
      bits = ((List.range s.n).flatMap fun j => code Config.hw (zOf (s.lane rs1 j))) →
      (8 * imm.toNat < bits.length → exec (.compress rs1 imm) s = .next { s with res := .overflow }) ∧
      (bits.length ≤ 8 * imm.toNat → ∃ t, exec (.compress rs1 imm) s = .next t ∧
        (∃ m, t = { s with mem := m, blen := imm, res := .ok }) ∧
        (∀ i < 8 * imm.toNat, (t.byteAt (bbAddr (i / 8))).getLsbD (7 - i % 8) = bits.getD i false) ∧
        ∀ a, a < bbAddr 0 ∨ bbAddr imm.toNat ≤ a → t.byteAt a = s.byteAt a))

/-- R187 with R186: `DECOMPRESS` writes the polynomial whose `COMPRESS` to the same length gives the bytes, when there is one, and
otherwise only the result code `MALFORMED`; a length beyond `BLEN` or `LOGN = 0` is `INVALID_PARAM`. -/
def Obligations.DecompressInvertsCompress : Prop :=
  ∀ (s : State) (rd : Reg) (imm : BitVec 12), s.fault = none →
    encode (.decompress rd imm) = wordOf 0x41 rd 0 0 imm.toNat ∧
    (s.logn = 0#4 ∨ s.blen.toNat < imm.toNat → Faults (.decompress rd imm) s .invalidParam) ∧
    (s.logn ≠ 0#4 → imm.toNat ≤ s.blen.toNat →
      (∀ p : List Int, p.length = s.n → compress Config.hw p imm.toNat = some (s.bytesAt (bbAddr 0) imm.toNat) →
        ∃ t, exec (.decompress rd imm) s = .next t ∧ WritesLanes s t rd .z fun j => zLane (p.getD j 0)) ∧
      ((¬ ∃ p : List Int, p.length = s.n ∧
          compress Config.hw p imm.toNat = some (s.bytesAt (bbAddr 0) imm.toNat)) →
        exec (.decompress rd imm) s = .next { s with res := .malformed }))

/-! The machine as a whole. -/

/-- Every step keeps the invariant, from every state that has it. R25, R28, R30 and the windows of R50 are the spec's. The model's
own are the canonical form of storage (logs 3 and 24) and that the active lanes of a typed register have been written: R62 and R238
let `TAG` type words that nothing wrote, and the model stores them as `TAG` saw them (log 4). -/
def Obligations.StepKeepsInvariant : Prop :=
  ∀ s t : State, Inv s → step s = .next t → Inv t

/-- The state after reset has the invariant. -/
def Obligations.ResetHasInvariant : Prop := Inv State.reset

/-- R215 with R60, R90: a faulted machine is frozen until reset: a step that makes no reset uses up the host's next move and
changes nothing else. -/
def Obligations.FaultedMachineIsFrozen : Prop :=
  ∀ s t : State, Inv s → s.fault ≠ none → ¬ ResetNext s → step s = .next t →
    t = { s with inputs := s.inputs.tail, rdata := t.rdata, now := s.now + 1 }

/-- R164: the RNG stream never goes back, and only `SAMPLEZ`, starting or running, takes bytes from it. -/
def Obligations.OnlySamplezTakesBytes : Prop :=
  ∀ s t : State, step s = .next t → s.rngPos ≤ t.rngPos ∧
    (t.rngPos ≠ s.rngPos → s.leaf ≠ none ∨ ∃ rest, s.inputs = .write cmdOffset 0x30000000#32 :: rest)

/-- What no command changes, and which command alone changes the rest: `MU`, `SIGLEAF`, `SIGMIN` (R35); `LOGN` (R30); `SZ`, `REJCNT`
(R32, R33) and the draw in progress; `BLEN` (R31); tags and storage (R42). -/
def Obligations.CommandsKeepTheirFrame : Prop :=
  ∀ (i : Instr) (s t : State), exec i s = .next t →
    t.mu = s.mu ∧ t.sigleaf = s.sigleaf ∧ t.sigmin = s.sigmin ∧
    t.inputs = s.inputs ∧ t.rdata = s.rdata ∧ t.now = s.now ∧
    ((∀ imm, i ≠ .cfg imm) → t.logn = s.logn) ∧
    (i ≠ .samplez → t.sz = s.sz ∧ t.rejcnt = s.rejcnt ∧ t.rngPos = s.rngPos ∧ t.leaf = s.leaf) ∧
    ((∀ rs1 imm, i ≠ .compress rs1 imm) → t.blen = s.blen) ∧
    ((∀ imm, i ≠ .cfg imm) → ∀ r : Reg, destination i ≠ some r → t.tags[r] = s.tags[r]) ∧
    (∀ a, ¬ MayWrite i s a → t.byteAt a = s.byteAt a)

/-! The ring. -/

/-- R5, R6: the hardware's configuration is well-formed: its parameters are admissible and its elementary operations are those of
R131, R132 and R143; and for every admissible configuration `psi_n` has `psi_n^n = −1`, and `n` has
the inverse the transform uses. -/
def Obligations.RootHasOrderTwoN : Prop :=
  Config.prau.WF ∧ ∀ (p : Params) (logn : Nat), p.WF → 1 ≤ logn → logn ≤ 10 →
    rootOf p (2 ^ logn) ^ 2 ^ logn % p.q = p.q - 1 ∧ nInv p logn * 2 ^ logn % p.q = 1 ∧
    psiN p logn = rootOf p (2 ^ logn)

/-- R102: for every admissible configuration the two transforms undo each other exactly. -/
def Obligations.TransformsAreInverse : Prop :=
  ∀ (p : Params) (logn : Nat) (a : List Nat), p.WF → 1 ≤ logn → logn ≤ 10 → a.length = 2 ^ logn →
    (∀ v ∈ a, v < p.q) → intt p logn (ntt p logn a) = a ∧ ntt p logn (intt p logn a) = a

/-- R115: the exact laws of the machine's transform and product, for every admissible configuration: lane `k` of the transform is
the value of the polynomial at `psi_n^(2k+1)` (R101); it respects sums, differences and negation; the product is the ring product
of R8, and the transform takes it to lane products; an element has an inverse exactly when none of its values is zero, and then
the values of the inverse are the inverses; the identity has all values 1. -/
def Obligations.TransformIsRingIsomorphism : Prop :=
  ∀ (p : Params) (logn n : Nat) (a b one : List Nat), p.WF → 1 ≤ logn → logn ≤ 10 → n = 2 ^ logn →
    a.length = n → (∀ v ∈ a, v < p.q) → b.length = n → (∀ v ∈ b, v < p.q) → one = 1 :: List.replicate (n - 1) 0 →
    ntt p logn a = (List.range n).map (evaluation p n fun j => a.getD j 0) ∧
    ntt p logn (List.zipWith (fun x y => (x + y) % p.q) a b) =
      List.zipWith (fun x y => (x + y) % p.q) (ntt p logn a) (ntt p logn b) ∧
    ntt p logn (List.zipWith (fun x y => (x + (p.q - y)) % p.q) a b) =
      List.zipWith (fun x y => (x + (p.q - y)) % p.q) (ntt p logn a) (ntt p logn b) ∧
    ntt p logn (b.map fun y => (p.q - y) % p.q) = (ntt p logn b).map (fun y => (p.q - y) % p.q) ∧
    mulRing p logn a b = (List.range n).map (ringProduct p n (fun j => a.getD j 0) fun j => b.getD j 0) ∧
    ntt p logn (mulRing p logn a b) = List.zipWith (fun x y => x * y % p.q) (ntt p logn a) (ntt p logn b) ∧
    ntt p logn one = List.replicate n 1 ∧
    ((∃ c : List Nat, c.length = n ∧ (∀ v ∈ c, v < p.q) ∧ mulRing p logn b c = one) ↔ 0 ∉ ntt p logn b) ∧
    (∀ c : List Nat, c.length = n → (∀ v ∈ c, v < p.q) → mulRing p logn b c = one →
      ntt p logn c = (ntt p logn b).map (invQ p.q) ∧
      List.zipWith (fun x y => x * y % p.q) (ntt p logn c) (ntt p logn b) = List.replicate n 1)

/-! The codec on lists. -/

/-- R180: for every configuration the code of `c` is the sign bit, 1 exactly for `c < 0`; the `LOW_BITS` bits of `|c| mod 2^LOW_BITS`,
most significant first; `|c| / 2^LOW_BITS` bits equal to `RUN_BIT`; and one terminator. R183: `compress` overflows exactly when the codes have more than `8·L` bits; otherwise it gives
`L` bytes holding the codes and then zeros. -/
def Obligations.CompressFitsOrOverflows : Prop :=
  ∀ (p : Params) (cs : List Int) (L : Nat),
    (∀ c : Int,
      (code p c).length = 2 + p.lowBits + c.natAbs / 2 ^ p.lowBits ∧
      (code p c)[0]? = some (decide (c < 0)) ∧
      (∀ i < p.lowBits, (code p c)[1 + i]? = some ((c.natAbs % 2 ^ p.lowBits).testBit (p.lowBits - 1 - i))) ∧
      (∀ i < c.natAbs / 2 ^ p.lowBits, (code p c)[1 + p.lowBits + i]? = some p.runBit) ∧
      (code p c)[1 + p.lowBits + c.natAbs / 2 ^ p.lowBits]? = some (!p.runBit)) ∧
    (compress p cs L = none ↔ 8 * L < (cs.flatMap (code p)).length) ∧
    (∀ bs, compress p cs L = some bs → bs.length = L ∧
      bitsOf bs = cs.flatMap (code p) ++ List.replicate (8 * L - (cs.flatMap (code p)).length) false)

/-- R186, for every configuration: what `compress` gives decodes, with the same length, to the polynomial; and a string that
decodes is the one `compress` gives for the polynomial. -/
def Obligations.CodecIsCanonical : Prop :=
  (∀ (p : Params) (cs : List Int) (L : Nat) (bs : List Byte),
    compress p cs L = some bs → decompress p bs cs.length = some cs) ∧
  (∀ (p : Params) (bs : List Byte) (n : Nat) (cs : List Int),
    decompress p bs n = some cs → cs.length = n ∧ compress p cs bs.length = some bs)

/-! Floating point. -/

/-- R131: the sum and the difference of finite values are the nearest patterns, or the infinity of the right sign when out of
range; an exact zero is `−0.0` only for two negative zeros. R131 takes IEEE 754 from general knowledge; where the range ends and
the signs of zeros are as log 18 reads it (PRESUMED). -/
def Obligations.SumsRoundToNearestEven : Prop :=
  ∀ nan a b : F64, isFinite a = true → isFinite b = true →
    (¬ OutOfRange (scaled a + scaled b) 0 → NearestPattern (fadd nan a b) (scaled a + scaled b) 0) ∧
    (OutOfRange (scaled a + scaled b) 0 → isInf (fadd nan a b) = true ∧
      fpSign (fadd nan a b) = decide (scaled a + scaled b < 0)) ∧
    (scaled a + scaled b = 0 → fadd nan a b = if fpSign a && fpSign b then 0x8000000000000000#64 else 0#64) ∧
    (¬ OutOfRange (scaled a - scaled b) 0 → NearestPattern (fsub nan a b) (scaled a - scaled b) 0) ∧
    (OutOfRange (scaled a - scaled b) 0 → isInf (fsub nan a b) = true ∧
      fpSign (fsub nan a b) = decide (scaled a - scaled b < 0)) ∧
    (scaled a - scaled b = 0 → fsub nan a b = if fpSign a && !fpSign b then 0x8000000000000000#64 else 0#64)

/-- R131: the product of finite values is the nearest pattern, or the infinity when out of range, with the sign of the product; where
the range ends and the signs of zeros are as log 18 reads IEEE 754 (PRESUMED). -/
def Obligations.ProductsRoundToNearestEven : Prop :=
  ∀ nan a b : F64, isFinite a = true → isFinite b = true →
    (¬ OutOfRange (scaled a * scaled b) 1074 → NearestPattern (fmul nan a b) (scaled a * scaled b) 1074) ∧
    (OutOfRange (scaled a * scaled b) 1074 → isInf (fmul nan a b) = true) ∧
    fpSign (fmul nan a b) = (fpSign a != fpSign b)

/-- R131: operations on infinities and NaNs, the results for infinities being those of IEEE 754 as log 18 reads it (PRESUMED);
negation on every pattern; and that the drawn patterns, the model's `nanOf` (log 5), are exactly the NaNs. -/
def Obligations.SpecialValuesFollowIeee : Prop :=
  ∀ nan a b : F64,
    (isNan a = true ∨ isNan b = true → fadd nan a b = nan ∧ fsub nan a b = nan ∧ fmul nan a b = nan) ∧
    (isInf a = true → isFinite b = true → fadd nan a b = a ∧ fsub nan a b = a ∧
      fadd nan b a = a ∧ fsub nan b a = fneg a) ∧
    (isInf a = true → isInf b = true →
      fadd nan a b = (if fpSign a = fpSign b then a else nan) ∧
      fsub nan a b = (if fpSign a = fpSign b then nan else a)) ∧
    (isInf a = true → isNan b = false →
      (isFinite b = true ∧ scaled b = 0 → fmul nan a b = nan ∧ fmul nan b a = nan) ∧
      (¬ (isFinite b = true ∧ scaled b = 0) → isInf (fmul nan a b) = true ∧ fmul nan b a = fmul nan a b ∧
        fpSign (fmul nan a b) = (fpSign a != fpSign b))) ∧
    (fneg a = a ^^^ 0x8000000000000000#64) ∧
    (isNan nan = true ↔ ∃ bits, nanOf bits = nan)

/-- R132: `i2f` is exact for integers of magnitude at most 2^31, and `i2f 0` is `+0.0`. -/
def Obligations.IntegersConvertExactly : Prop :=
  (∀ x : Int, |x| ≤ 2 ^ 31 → isFinite (i2f x) = true ∧ scaled (i2f x) = x * 2 ^ 1074) ∧
  i2f 0 = 0x0000000000000000#64

/-- R133, R144, and what they mean for the machine. Over the reals the ideal transforms undo each other, are linear, take products
modulo `x^n + 1` to lane products, and give conjugate values at opposite lanes. So when two registers hold the ideal transforms of
`f` and `g` exactly and none of the operations has to round, the machine's `MULF` writes the ideal transform of the product, from
which the ideal inverse gets the product back, `ADDF` and `SUBF` those of the sum and the difference; `NEGF` never rounds. Nothing
of this is said of the hardware's transforms. -/
def Obligations.IdealTransformsAreInverse : Prop :=
  ∀ (logn n : Nat) (f g h : Nat → ℝ) (F G : Nat → ℂ), 1 ≤ logn → logn ≤ 10 → n = 2 ^ logn →
    IsIdealFft n f F → IsIdealFft n g G → IsRealProduct n f g h →
    IsIdealIfft n F f ∧
    (∀ a b : ℝ, IsIdealFft n (fun j => a * f j + b * g j) (fun k => a * F k + b * G k)) ∧
    IsIdealFft n h (fun k => F k * G k) ∧
    (∀ k < n, F (n - 1 - k) = starRingEnd ℂ (F k)) ∧
    ∀ (s : State) (rd rs1 rs2 : Reg), s.fault = none → s.logn.toNat = logn → s.tags[rs1] = .f → s.tags[rs2] = .f →
      (∀ k < n, IsComplexValue (fOf (s.lane rs1 k)) (F k) ∧ IsComplexValue (fOf (s.lane rs2 k)) (G k)) →
      ((∀ k < n, ExactProduct (F k) (G k)) → ∃ (t : State) (H : Nat → ℂ), exec (.mulf rd rs1 rs2) s = .next t ∧
        (∀ k < n, IsComplexValue (fOf (t.lane rd k)) (H k)) ∧ IsIdealFft n h H ∧ IsIdealIfft n H h) ∧
      ((∀ k < n, Representable (F k + G k).re ∧ Representable (F k + G k).im) →
        ∃ (t : State) (H : Nat → ℂ), exec (.addf rd rs1 rs2) s = .next t ∧
          (∀ k < n, IsComplexValue (fOf (t.lane rd k)) (H k)) ∧ IsIdealFft n (fun j => f j + g j) H) ∧
      ((∀ k < n, Representable (F k - G k).re ∧ Representable (F k - G k).im) →
        ∃ (t : State) (H : Nat → ℂ), exec (.subf rd rs1 rs2) s = .next t ∧
          (∀ k < n, IsComplexValue (fOf (t.lane rd k)) (H k)) ∧ IsIdealFft n (fun j => f j - g j) H) ∧
      (∃ (t : State) (H : Nat → ℂ), exec (.negf rd rs1) s = .next t ∧
        (∀ k < n, IsComplexValue (fOf (t.lane rd k)) (H k)) ∧ IsIdealFft n (fun j => -f j) H)

/-- R136: with any transforms that have `FFT_RT`, rounding the round trip of integers of magnitude at most 2^28 gives them back
exactly. -/
def Obligations.RoundTripRecoversIntegers : Prop :=
  ∀ (num : Numerics) (logn : Nat) (zs : List Int), FftRoundTrip num → 1 ≤ logn → logn ≤ 10 →
    zs.length = 2 ^ logn → (∀ z ∈ zs, |z| ≤ 2 ^ 28) →
    ((List.range (2 ^ logn)).map fun j =>
      fround (num.ifft logn ((List.range (2 ^ logn)).map (num.fft logn (zs.map i2f))) j)) = zs.map some
end

