-- ==== Sys2Proof/Laws/State.lean ====
section
/-! SUPPORT. One lemma per field and per update of the state, each true by definition, so that no later proof unfolds a
record update. -/

namespace Sys2Proof.Machine

variable (s : State)

@[simp] theorem State.store_mem (a : Nat) (bs : List Byte) : (s.store a bs).mem = Memory.store s.mem a bs := rfl
@[simp] theorem State.store_tags (a : Nat) (bs : List Byte) : (s.store a bs).tags = s.tags := rfl
@[simp] theorem State.store_logn (a : Nat) (bs : List Byte) : (s.store a bs).logn = s.logn := rfl
@[simp] theorem State.store_blen (a : Nat) (bs : List Byte) : (s.store a bs).blen = s.blen := rfl
@[simp] theorem State.store_fault (a : Nat) (bs : List Byte) : (s.store a bs).fault = s.fault := rfl
@[simp] theorem State.store_res (a : Nat) (bs : List Byte) : (s.store a bs).res = s.res := rfl
@[simp] theorem State.store_fcmd (a : Nat) (bs : List Byte) : (s.store a bs).fcmd = s.fcmd := rfl
@[simp] theorem State.store_sz (a : Nat) (bs : List Byte) : (s.store a bs).sz = s.sz := rfl
@[simp] theorem State.store_rejcnt (a : Nat) (bs : List Byte) : (s.store a bs).rejcnt = s.rejcnt := rfl
@[simp] theorem State.store_mu (a : Nat) (bs : List Byte) : (s.store a bs).mu = s.mu := rfl
@[simp] theorem State.store_sigleaf (a : Nat) (bs : List Byte) : (s.store a bs).sigleaf = s.sigleaf := rfl
@[simp] theorem State.store_sigmin (a : Nat) (bs : List Byte) : (s.store a bs).sigmin = s.sigmin := rfl
@[simp] theorem State.store_leaf (a : Nat) (bs : List Byte) : (s.store a bs).leaf = s.leaf := rfl
@[simp] theorem State.store_rngPos (a : Nat) (bs : List Byte) : (s.store a bs).rngPos = s.rngPos := rfl
@[simp] theorem State.store_inputs (a : Nat) (bs : List Byte) : (s.store a bs).inputs = s.inputs := rfl
@[simp] theorem State.store_rdata (a : Nat) (bs : List Byte) : (s.store a bs).rdata = s.rdata := rfl
@[simp] theorem State.store_now (a : Nat) (bs : List Byte) : (s.store a bs).now = s.now := rfl
@[simp] theorem State.store_n (a : Nat) (bs : List Byte) : (s.store a bs).n = s.n := rfl

@[simp] theorem State.setTag_mem (r : Reg) (t : Tag) : (s.setTag r t).mem = s.mem := rfl
@[simp] theorem State.setTag_tags (r : Reg) (t : Tag) : (s.setTag r t).tags = s.tags.set r.val t r.isLt := rfl
@[simp] theorem State.setTag_logn (r : Reg) (t : Tag) : (s.setTag r t).logn = s.logn := rfl
@[simp] theorem State.setTag_blen (r : Reg) (t : Tag) : (s.setTag r t).blen = s.blen := rfl
@[simp] theorem State.setTag_fault (r : Reg) (t : Tag) : (s.setTag r t).fault = s.fault := rfl
@[simp] theorem State.setTag_res (r : Reg) (t : Tag) : (s.setTag r t).res = s.res := rfl
@[simp] theorem State.setTag_fcmd (r : Reg) (t : Tag) : (s.setTag r t).fcmd = s.fcmd := rfl
@[simp] theorem State.setTag_sz (r : Reg) (t : Tag) : (s.setTag r t).sz = s.sz := rfl
@[simp] theorem State.setTag_rejcnt (r : Reg) (t : Tag) : (s.setTag r t).rejcnt = s.rejcnt := rfl
@[simp] theorem State.setTag_mu (r : Reg) (t : Tag) : (s.setTag r t).mu = s.mu := rfl
@[simp] theorem State.setTag_sigleaf (r : Reg) (t : Tag) : (s.setTag r t).sigleaf = s.sigleaf := rfl
@[simp] theorem State.setTag_sigmin (r : Reg) (t : Tag) : (s.setTag r t).sigmin = s.sigmin := rfl
@[simp] theorem State.setTag_leaf (r : Reg) (t : Tag) : (s.setTag r t).leaf = s.leaf := rfl
@[simp] theorem State.setTag_rngPos (r : Reg) (t : Tag) : (s.setTag r t).rngPos = s.rngPos := rfl
@[simp] theorem State.setTag_inputs (r : Reg) (t : Tag) : (s.setTag r t).inputs = s.inputs := rfl
@[simp] theorem State.setTag_rdata (r : Reg) (t : Tag) : (s.setTag r t).rdata = s.rdata := rfl
@[simp] theorem State.setTag_now (r : Reg) (t : Tag) : (s.setTag r t).now = s.now := rfl
@[simp] theorem State.setTag_n (r : Reg) (t : Tag) : (s.setTag r t).n = s.n := rfl
@[simp] theorem State.setTag_byteAt (r : Reg) (t : Tag) (x : Nat) : (s.setTag r t).byteAt x = s.byteAt x := rfl
@[simp] theorem State.setTag_lane (r : Reg) (t : Tag) (x : Reg) (j : Nat) : (s.setTag r t).lane x j = s.lane x j := rfl

@[simp] theorem State.clearTags_mem : (s.clearTags).mem = s.mem := rfl
@[simp] theorem State.clearTags_tags : (s.clearTags).tags = Vector.replicate 8 .e := rfl
@[simp] theorem State.clearTags_logn : (s.clearTags).logn = s.logn := rfl
@[simp] theorem State.clearTags_blen : (s.clearTags).blen = s.blen := rfl
@[simp] theorem State.clearTags_fault : (s.clearTags).fault = s.fault := rfl
@[simp] theorem State.clearTags_res : (s.clearTags).res = s.res := rfl
@[simp] theorem State.clearTags_fcmd : (s.clearTags).fcmd = s.fcmd := rfl
@[simp] theorem State.clearTags_sz : (s.clearTags).sz = s.sz := rfl
@[simp] theorem State.clearTags_rejcnt : (s.clearTags).rejcnt = s.rejcnt := rfl
@[simp] theorem State.clearTags_mu : (s.clearTags).mu = s.mu := rfl
@[simp] theorem State.clearTags_sigleaf : (s.clearTags).sigleaf = s.sigleaf := rfl
@[simp] theorem State.clearTags_sigmin : (s.clearTags).sigmin = s.sigmin := rfl
@[simp] theorem State.clearTags_leaf : (s.clearTags).leaf = s.leaf := rfl
@[simp] theorem State.clearTags_rngPos : (s.clearTags).rngPos = s.rngPos := rfl
@[simp] theorem State.clearTags_inputs : (s.clearTags).inputs = s.inputs := rfl
@[simp] theorem State.clearTags_rdata : (s.clearTags).rdata = s.rdata := rfl
@[simp] theorem State.clearTags_now : (s.clearTags).now = s.now := rfl
@[simp] theorem State.clearTags_n : (s.clearTags).n = s.n := rfl
@[simp] theorem State.clearTags_byteAt (x : Nat) : (s.clearTags).byteAt x = s.byteAt x := rfl
@[simp] theorem State.clearTags_lane (x : Reg) (j : Nat) : (s.clearTags).lane x j = s.lane x j := rfl

@[simp] theorem State.setRes_mem (c : Res) : (s.setRes c).mem = s.mem := rfl
@[simp] theorem State.setRes_tags (c : Res) : (s.setRes c).tags = s.tags := rfl
@[simp] theorem State.setRes_logn (c : Res) : (s.setRes c).logn = s.logn := rfl
@[simp] theorem State.setRes_blen (c : Res) : (s.setRes c).blen = s.blen := rfl
@[simp] theorem State.setRes_fault (c : Res) : (s.setRes c).fault = s.fault := rfl
@[simp] theorem State.setRes_res (c : Res) : (s.setRes c).res = c := rfl
@[simp] theorem State.setRes_fcmd (c : Res) : (s.setRes c).fcmd = s.fcmd := rfl
@[simp] theorem State.setRes_sz (c : Res) : (s.setRes c).sz = s.sz := rfl
@[simp] theorem State.setRes_rejcnt (c : Res) : (s.setRes c).rejcnt = s.rejcnt := rfl
@[simp] theorem State.setRes_mu (c : Res) : (s.setRes c).mu = s.mu := rfl
@[simp] theorem State.setRes_sigleaf (c : Res) : (s.setRes c).sigleaf = s.sigleaf := rfl
@[simp] theorem State.setRes_sigmin (c : Res) : (s.setRes c).sigmin = s.sigmin := rfl
@[simp] theorem State.setRes_leaf (c : Res) : (s.setRes c).leaf = s.leaf := rfl
@[simp] theorem State.setRes_rngPos (c : Res) : (s.setRes c).rngPos = s.rngPos := rfl
@[simp] theorem State.setRes_inputs (c : Res) : (s.setRes c).inputs = s.inputs := rfl
@[simp] theorem State.setRes_rdata (c : Res) : (s.setRes c).rdata = s.rdata := rfl
@[simp] theorem State.setRes_now (c : Res) : (s.setRes c).now = s.now := rfl
@[simp] theorem State.setRes_n (c : Res) : (s.setRes c).n = s.n := rfl
@[simp] theorem State.setRes_byteAt (c : Res) (x : Nat) : (s.setRes c).byteAt x = s.byteAt x := rfl
@[simp] theorem State.setRes_lane (c : Res) (x : Reg) (j : Nat) : (s.setRes c).lane x j = s.lane x j := rfl

@[simp] theorem State.setLogn_mem (v : BitVec 4) : (s.setLogn v).mem = s.mem := rfl
@[simp] theorem State.setLogn_tags (v : BitVec 4) : (s.setLogn v).tags = s.tags := rfl
@[simp] theorem State.setLogn_logn (v : BitVec 4) : (s.setLogn v).logn = v := rfl
@[simp] theorem State.setLogn_blen (v : BitVec 4) : (s.setLogn v).blen = s.blen := rfl
@[simp] theorem State.setLogn_fault (v : BitVec 4) : (s.setLogn v).fault = s.fault := rfl
@[simp] theorem State.setLogn_res (v : BitVec 4) : (s.setLogn v).res = s.res := rfl
@[simp] theorem State.setLogn_fcmd (v : BitVec 4) : (s.setLogn v).fcmd = s.fcmd := rfl
@[simp] theorem State.setLogn_sz (v : BitVec 4) : (s.setLogn v).sz = s.sz := rfl
@[simp] theorem State.setLogn_rejcnt (v : BitVec 4) : (s.setLogn v).rejcnt = s.rejcnt := rfl
@[simp] theorem State.setLogn_mu (v : BitVec 4) : (s.setLogn v).mu = s.mu := rfl
@[simp] theorem State.setLogn_sigleaf (v : BitVec 4) : (s.setLogn v).sigleaf = s.sigleaf := rfl
@[simp] theorem State.setLogn_sigmin (v : BitVec 4) : (s.setLogn v).sigmin = s.sigmin := rfl
@[simp] theorem State.setLogn_leaf (v : BitVec 4) : (s.setLogn v).leaf = s.leaf := rfl
@[simp] theorem State.setLogn_rngPos (v : BitVec 4) : (s.setLogn v).rngPos = s.rngPos := rfl
@[simp] theorem State.setLogn_inputs (v : BitVec 4) : (s.setLogn v).inputs = s.inputs := rfl
@[simp] theorem State.setLogn_rdata (v : BitVec 4) : (s.setLogn v).rdata = s.rdata := rfl
@[simp] theorem State.setLogn_now (v : BitVec 4) : (s.setLogn v).now = s.now := rfl
@[simp] theorem State.setLogn_byteAt (v : BitVec 4) (x : Nat) : (s.setLogn v).byteAt x = s.byteAt x := rfl
@[simp] theorem State.setLogn_lane (v : BitVec 4) (x : Reg) (j : Nat) : (s.setLogn v).lane x j = s.lane x j := rfl

@[simp] theorem State.setBlen_mem (v : BitVec 12) : (s.setBlen v).mem = s.mem := rfl
@[simp] theorem State.setBlen_tags (v : BitVec 12) : (s.setBlen v).tags = s.tags := rfl
@[simp] theorem State.setBlen_logn (v : BitVec 12) : (s.setBlen v).logn = s.logn := rfl
@[simp] theorem State.setBlen_blen (v : BitVec 12) : (s.setBlen v).blen = v := rfl
@[simp] theorem State.setBlen_fault (v : BitVec 12) : (s.setBlen v).fault = s.fault := rfl
@[simp] theorem State.setBlen_res (v : BitVec 12) : (s.setBlen v).res = s.res := rfl
@[simp] theorem State.setBlen_fcmd (v : BitVec 12) : (s.setBlen v).fcmd = s.fcmd := rfl
@[simp] theorem State.setBlen_sz (v : BitVec 12) : (s.setBlen v).sz = s.sz := rfl
@[simp] theorem State.setBlen_rejcnt (v : BitVec 12) : (s.setBlen v).rejcnt = s.rejcnt := rfl
@[simp] theorem State.setBlen_mu (v : BitVec 12) : (s.setBlen v).mu = s.mu := rfl
@[simp] theorem State.setBlen_sigleaf (v : BitVec 12) : (s.setBlen v).sigleaf = s.sigleaf := rfl
@[simp] theorem State.setBlen_sigmin (v : BitVec 12) : (s.setBlen v).sigmin = s.sigmin := rfl
@[simp] theorem State.setBlen_leaf (v : BitVec 12) : (s.setBlen v).leaf = s.leaf := rfl
@[simp] theorem State.setBlen_rngPos (v : BitVec 12) : (s.setBlen v).rngPos = s.rngPos := rfl
@[simp] theorem State.setBlen_inputs (v : BitVec 12) : (s.setBlen v).inputs = s.inputs := rfl
@[simp] theorem State.setBlen_rdata (v : BitVec 12) : (s.setBlen v).rdata = s.rdata := rfl
@[simp] theorem State.setBlen_now (v : BitVec 12) : (s.setBlen v).now = s.now := rfl
@[simp] theorem State.setBlen_n (v : BitVec 12) : (s.setBlen v).n = s.n := rfl
@[simp] theorem State.setBlen_byteAt (v : BitVec 12) (x : Nat) : (s.setBlen v).byteAt x = s.byteAt x := rfl
@[simp] theorem State.setBlen_lane (v : BitVec 12) (x : Reg) (j : Nat) : (s.setBlen v).lane x j = s.lane x j := rfl

@[simp] theorem State.setSz_mem (v : Word) : (s.setSz v).mem = s.mem := rfl
@[simp] theorem State.setSz_tags (v : Word) : (s.setSz v).tags = s.tags := rfl
@[simp] theorem State.setSz_logn (v : Word) : (s.setSz v).logn = s.logn := rfl
@[simp] theorem State.setSz_blen (v : Word) : (s.setSz v).blen = s.blen := rfl
@[simp] theorem State.setSz_fault (v : Word) : (s.setSz v).fault = s.fault := rfl
@[simp] theorem State.setSz_res (v : Word) : (s.setSz v).res = s.res := rfl
@[simp] theorem State.setSz_fcmd (v : Word) : (s.setSz v).fcmd = s.fcmd := rfl
@[simp] theorem State.setSz_sz (v : Word) : (s.setSz v).sz = v := rfl
@[simp] theorem State.setSz_rejcnt (v : Word) : (s.setSz v).rejcnt = s.rejcnt := rfl
@[simp] theorem State.setSz_mu (v : Word) : (s.setSz v).mu = s.mu := rfl
@[simp] theorem State.setSz_sigleaf (v : Word) : (s.setSz v).sigleaf = s.sigleaf := rfl
@[simp] theorem State.setSz_sigmin (v : Word) : (s.setSz v).sigmin = s.sigmin := rfl
@[simp] theorem State.setSz_leaf (v : Word) : (s.setSz v).leaf = s.leaf := rfl
@[simp] theorem State.setSz_rngPos (v : Word) : (s.setSz v).rngPos = s.rngPos := rfl
@[simp] theorem State.setSz_inputs (v : Word) : (s.setSz v).inputs = s.inputs := rfl
@[simp] theorem State.setSz_rdata (v : Word) : (s.setSz v).rdata = s.rdata := rfl
@[simp] theorem State.setSz_now (v : Word) : (s.setSz v).now = s.now := rfl
@[simp] theorem State.setSz_n (v : Word) : (s.setSz v).n = s.n := rfl
@[simp] theorem State.setSz_byteAt (v : Word) (x : Nat) : (s.setSz v).byteAt x = s.byteAt x := rfl
@[simp] theorem State.setSz_lane (v : Word) (x : Reg) (j : Nat) : (s.setSz v).lane x j = s.lane x j := rfl

@[simp] theorem State.setRejcnt_mem (v : Word) : (s.setRejcnt v).mem = s.mem := rfl
@[simp] theorem State.setRejcnt_tags (v : Word) : (s.setRejcnt v).tags = s.tags := rfl
@[simp] theorem State.setRejcnt_logn (v : Word) : (s.setRejcnt v).logn = s.logn := rfl
@[simp] theorem State.setRejcnt_blen (v : Word) : (s.setRejcnt v).blen = s.blen := rfl
@[simp] theorem State.setRejcnt_fault (v : Word) : (s.setRejcnt v).fault = s.fault := rfl
@[simp] theorem State.setRejcnt_res (v : Word) : (s.setRejcnt v).res = s.res := rfl
@[simp] theorem State.setRejcnt_fcmd (v : Word) : (s.setRejcnt v).fcmd = s.fcmd := rfl
@[simp] theorem State.setRejcnt_sz (v : Word) : (s.setRejcnt v).sz = s.sz := rfl
@[simp] theorem State.setRejcnt_rejcnt (v : Word) : (s.setRejcnt v).rejcnt = v := rfl
@[simp] theorem State.setRejcnt_mu (v : Word) : (s.setRejcnt v).mu = s.mu := rfl
@[simp] theorem State.setRejcnt_sigleaf (v : Word) : (s.setRejcnt v).sigleaf = s.sigleaf := rfl
@[simp] theorem State.setRejcnt_sigmin (v : Word) : (s.setRejcnt v).sigmin = s.sigmin := rfl
@[simp] theorem State.setRejcnt_leaf (v : Word) : (s.setRejcnt v).leaf = s.leaf := rfl
@[simp] theorem State.setRejcnt_rngPos (v : Word) : (s.setRejcnt v).rngPos = s.rngPos := rfl
@[simp] theorem State.setRejcnt_inputs (v : Word) : (s.setRejcnt v).inputs = s.inputs := rfl
@[simp] theorem State.setRejcnt_rdata (v : Word) : (s.setRejcnt v).rdata = s.rdata := rfl
@[simp] theorem State.setRejcnt_now (v : Word) : (s.setRejcnt v).now = s.now := rfl
@[simp] theorem State.setRejcnt_n (v : Word) : (s.setRejcnt v).n = s.n := rfl
@[simp] theorem State.setRejcnt_byteAt (v : Word) (x : Nat) : (s.setRejcnt v).byteAt x = s.byteAt x := rfl
@[simp] theorem State.setRejcnt_lane (v : Word) (x : Reg) (j : Nat) : (s.setRejcnt v).lane x j = s.lane x j := rfl

@[simp] theorem State.setMu_mem (v : F64) : (s.setMu v).mem = s.mem := rfl
@[simp] theorem State.setMu_tags (v : F64) : (s.setMu v).tags = s.tags := rfl
@[simp] theorem State.setMu_logn (v : F64) : (s.setMu v).logn = s.logn := rfl
@[simp] theorem State.setMu_blen (v : F64) : (s.setMu v).blen = s.blen := rfl
@[simp] theorem State.setMu_fault (v : F64) : (s.setMu v).fault = s.fault := rfl
@[simp] theorem State.setMu_res (v : F64) : (s.setMu v).res = s.res := rfl
@[simp] theorem State.setMu_fcmd (v : F64) : (s.setMu v).fcmd = s.fcmd := rfl
@[simp] theorem State.setMu_sz (v : F64) : (s.setMu v).sz = s.sz := rfl
@[simp] theorem State.setMu_rejcnt (v : F64) : (s.setMu v).rejcnt = s.rejcnt := rfl
@[simp] theorem State.setMu_mu (v : F64) : (s.setMu v).mu = v := rfl
@[simp] theorem State.setMu_sigleaf (v : F64) : (s.setMu v).sigleaf = s.sigleaf := rfl
@[simp] theorem State.setMu_sigmin (v : F64) : (s.setMu v).sigmin = s.sigmin := rfl
@[simp] theorem State.setMu_leaf (v : F64) : (s.setMu v).leaf = s.leaf := rfl
@[simp] theorem State.setMu_rngPos (v : F64) : (s.setMu v).rngPos = s.rngPos := rfl
@[simp] theorem State.setMu_inputs (v : F64) : (s.setMu v).inputs = s.inputs := rfl
@[simp] theorem State.setMu_rdata (v : F64) : (s.setMu v).rdata = s.rdata := rfl
@[simp] theorem State.setMu_now (v : F64) : (s.setMu v).now = s.now := rfl
@[simp] theorem State.setMu_n (v : F64) : (s.setMu v).n = s.n := rfl
@[simp] theorem State.setMu_byteAt (v : F64) (x : Nat) : (s.setMu v).byteAt x = s.byteAt x := rfl
@[simp] theorem State.setMu_lane (v : F64) (x : Reg) (j : Nat) : (s.setMu v).lane x j = s.lane x j := rfl

@[simp] theorem State.setSigleaf_mem (v : F64) : (s.setSigleaf v).mem = s.mem := rfl
@[simp] theorem State.setSigleaf_tags (v : F64) : (s.setSigleaf v).tags = s.tags := rfl
@[simp] theorem State.setSigleaf_logn (v : F64) : (s.setSigleaf v).logn = s.logn := rfl
@[simp] theorem State.setSigleaf_blen (v : F64) : (s.setSigleaf v).blen = s.blen := rfl
@[simp] theorem State.setSigleaf_fault (v : F64) : (s.setSigleaf v).fault = s.fault := rfl
@[simp] theorem State.setSigleaf_res (v : F64) : (s.setSigleaf v).res = s.res := rfl
@[simp] theorem State.setSigleaf_fcmd (v : F64) : (s.setSigleaf v).fcmd = s.fcmd := rfl
@[simp] theorem State.setSigleaf_sz (v : F64) : (s.setSigleaf v).sz = s.sz := rfl
@[simp] theorem State.setSigleaf_rejcnt (v : F64) : (s.setSigleaf v).rejcnt = s.rejcnt := rfl
@[simp] theorem State.setSigleaf_mu (v : F64) : (s.setSigleaf v).mu = s.mu := rfl
@[simp] theorem State.setSigleaf_sigleaf (v : F64) : (s.setSigleaf v).sigleaf = v := rfl
@[simp] theorem State.setSigleaf_sigmin (v : F64) : (s.setSigleaf v).sigmin = s.sigmin := rfl
@[simp] theorem State.setSigleaf_leaf (v : F64) : (s.setSigleaf v).leaf = s.leaf := rfl
@[simp] theorem State.setSigleaf_rngPos (v : F64) : (s.setSigleaf v).rngPos = s.rngPos := rfl
@[simp] theorem State.setSigleaf_inputs (v : F64) : (s.setSigleaf v).inputs = s.inputs := rfl
@[simp] theorem State.setSigleaf_rdata (v : F64) : (s.setSigleaf v).rdata = s.rdata := rfl
@[simp] theorem State.setSigleaf_now (v : F64) : (s.setSigleaf v).now = s.now := rfl
@[simp] theorem State.setSigleaf_n (v : F64) : (s.setSigleaf v).n = s.n := rfl
@[simp] theorem State.setSigleaf_byteAt (v : F64) (x : Nat) : (s.setSigleaf v).byteAt x = s.byteAt x := rfl
@[simp] theorem State.setSigleaf_lane (v : F64) (x : Reg) (j : Nat) : (s.setSigleaf v).lane x j = s.lane x j := rfl

@[simp] theorem State.setSigmin_mem (v : F64) : (s.setSigmin v).mem = s.mem := rfl
@[simp] theorem State.setSigmin_tags (v : F64) : (s.setSigmin v).tags = s.tags := rfl
@[simp] theorem State.setSigmin_logn (v : F64) : (s.setSigmin v).logn = s.logn := rfl
@[simp] theorem State.setSigmin_blen (v : F64) : (s.setSigmin v).blen = s.blen := rfl
@[simp] theorem State.setSigmin_fault (v : F64) : (s.setSigmin v).fault = s.fault := rfl
@[simp] theorem State.setSigmin_res (v : F64) : (s.setSigmin v).res = s.res := rfl
@[simp] theorem State.setSigmin_fcmd (v : F64) : (s.setSigmin v).fcmd = s.fcmd := rfl
@[simp] theorem State.setSigmin_sz (v : F64) : (s.setSigmin v).sz = s.sz := rfl
@[simp] theorem State.setSigmin_rejcnt (v : F64) : (s.setSigmin v).rejcnt = s.rejcnt := rfl
@[simp] theorem State.setSigmin_mu (v : F64) : (s.setSigmin v).mu = s.mu := rfl
@[simp] theorem State.setSigmin_sigleaf (v : F64) : (s.setSigmin v).sigleaf = s.sigleaf := rfl
@[simp] theorem State.setSigmin_sigmin (v : F64) : (s.setSigmin v).sigmin = v := rfl
@[simp] theorem State.setSigmin_leaf (v : F64) : (s.setSigmin v).leaf = s.leaf := rfl
@[simp] theorem State.setSigmin_rngPos (v : F64) : (s.setSigmin v).rngPos = s.rngPos := rfl
@[simp] theorem State.setSigmin_inputs (v : F64) : (s.setSigmin v).inputs = s.inputs := rfl
@[simp] theorem State.setSigmin_rdata (v : F64) : (s.setSigmin v).rdata = s.rdata := rfl
@[simp] theorem State.setSigmin_now (v : F64) : (s.setSigmin v).now = s.now := rfl
@[simp] theorem State.setSigmin_n (v : F64) : (s.setSigmin v).n = s.n := rfl
@[simp] theorem State.setSigmin_byteAt (v : F64) (x : Nat) : (s.setSigmin v).byteAt x = s.byteAt x := rfl
@[simp] theorem State.setSigmin_lane (v : F64) (x : Reg) (j : Nat) : (s.setSigmin v).lane x j = s.lane x j := rfl

@[simp] theorem State.setLeaf_mem (l : Option LeafRun) : (s.setLeaf l).mem = s.mem := rfl
@[simp] theorem State.setLeaf_tags (l : Option LeafRun) : (s.setLeaf l).tags = s.tags := rfl
@[simp] theorem State.setLeaf_logn (l : Option LeafRun) : (s.setLeaf l).logn = s.logn := rfl
@[simp] theorem State.setLeaf_blen (l : Option LeafRun) : (s.setLeaf l).blen = s.blen := rfl
@[simp] theorem State.setLeaf_fault (l : Option LeafRun) : (s.setLeaf l).fault = s.fault := rfl
@[simp] theorem State.setLeaf_res (l : Option LeafRun) : (s.setLeaf l).res = s.res := rfl
@[simp] theorem State.setLeaf_fcmd (l : Option LeafRun) : (s.setLeaf l).fcmd = s.fcmd := rfl
@[simp] theorem State.setLeaf_sz (l : Option LeafRun) : (s.setLeaf l).sz = s.sz := rfl
@[simp] theorem State.setLeaf_rejcnt (l : Option LeafRun) : (s.setLeaf l).rejcnt = s.rejcnt := rfl
@[simp] theorem State.setLeaf_mu (l : Option LeafRun) : (s.setLeaf l).mu = s.mu := rfl
@[simp] theorem State.setLeaf_sigleaf (l : Option LeafRun) : (s.setLeaf l).sigleaf = s.sigleaf := rfl
@[simp] theorem State.setLeaf_sigmin (l : Option LeafRun) : (s.setLeaf l).sigmin = s.sigmin := rfl
@[simp] theorem State.setLeaf_leaf (l : Option LeafRun) : (s.setLeaf l).leaf = l := rfl
@[simp] theorem State.setLeaf_rngPos (l : Option LeafRun) : (s.setLeaf l).rngPos = s.rngPos := rfl
@[simp] theorem State.setLeaf_inputs (l : Option LeafRun) : (s.setLeaf l).inputs = s.inputs := rfl
@[simp] theorem State.setLeaf_rdata (l : Option LeafRun) : (s.setLeaf l).rdata = s.rdata := rfl
@[simp] theorem State.setLeaf_now (l : Option LeafRun) : (s.setLeaf l).now = s.now := rfl
@[simp] theorem State.setLeaf_n (l : Option LeafRun) : (s.setLeaf l).n = s.n := rfl
@[simp] theorem State.setLeaf_byteAt (l : Option LeafRun) (x : Nat) : (s.setLeaf l).byteAt x = s.byteAt x := rfl
@[simp] theorem State.setLeaf_lane (l : Option LeafRun) (x : Reg) (j : Nat) : (s.setLeaf l).lane x j = s.lane x j := rfl

@[simp] theorem State.setRngPos_mem (p : Nat) : (s.setRngPos p).mem = s.mem := rfl
@[simp] theorem State.setRngPos_tags (p : Nat) : (s.setRngPos p).tags = s.tags := rfl
@[simp] theorem State.setRngPos_logn (p : Nat) : (s.setRngPos p).logn = s.logn := rfl
@[simp] theorem State.setRngPos_blen (p : Nat) : (s.setRngPos p).blen = s.blen := rfl
@[simp] theorem State.setRngPos_fault (p : Nat) : (s.setRngPos p).fault = s.fault := rfl
@[simp] theorem State.setRngPos_res (p : Nat) : (s.setRngPos p).res = s.res := rfl
@[simp] theorem State.setRngPos_fcmd (p : Nat) : (s.setRngPos p).fcmd = s.fcmd := rfl
@[simp] theorem State.setRngPos_sz (p : Nat) : (s.setRngPos p).sz = s.sz := rfl
@[simp] theorem State.setRngPos_rejcnt (p : Nat) : (s.setRngPos p).rejcnt = s.rejcnt := rfl
@[simp] theorem State.setRngPos_mu (p : Nat) : (s.setRngPos p).mu = s.mu := rfl
@[simp] theorem State.setRngPos_sigleaf (p : Nat) : (s.setRngPos p).sigleaf = s.sigleaf := rfl
@[simp] theorem State.setRngPos_sigmin (p : Nat) : (s.setRngPos p).sigmin = s.sigmin := rfl
@[simp] theorem State.setRngPos_leaf (p : Nat) : (s.setRngPos p).leaf = s.leaf := rfl
@[simp] theorem State.setRngPos_rngPos (p : Nat) : (s.setRngPos p).rngPos = p := rfl
@[simp] theorem State.setRngPos_inputs (p : Nat) : (s.setRngPos p).inputs = s.inputs := rfl
@[simp] theorem State.setRngPos_rdata (p : Nat) : (s.setRngPos p).rdata = s.rdata := rfl
@[simp] theorem State.setRngPos_now (p : Nat) : (s.setRngPos p).now = s.now := rfl
@[simp] theorem State.setRngPos_n (p : Nat) : (s.setRngPos p).n = s.n := rfl
@[simp] theorem State.setRngPos_byteAt (p : Nat) (x : Nat) : (s.setRngPos p).byteAt x = s.byteAt x := rfl
@[simp] theorem State.setRngPos_lane (p : Nat) (x : Reg) (j : Nat) : (s.setRngPos p).lane x j = s.lane x j := rfl

@[simp] theorem State.setInputs_mem (ops : List HostOp) : (s.setInputs ops).mem = s.mem := rfl
@[simp] theorem State.setInputs_tags (ops : List HostOp) : (s.setInputs ops).tags = s.tags := rfl
@[simp] theorem State.setInputs_logn (ops : List HostOp) : (s.setInputs ops).logn = s.logn := rfl
@[simp] theorem State.setInputs_blen (ops : List HostOp) : (s.setInputs ops).blen = s.blen := rfl
@[simp] theorem State.setInputs_fault (ops : List HostOp) : (s.setInputs ops).fault = s.fault := rfl
@[simp] theorem State.setInputs_res (ops : List HostOp) : (s.setInputs ops).res = s.res := rfl
@[simp] theorem State.setInputs_fcmd (ops : List HostOp) : (s.setInputs ops).fcmd = s.fcmd := rfl
@[simp] theorem State.setInputs_sz (ops : List HostOp) : (s.setInputs ops).sz = s.sz := rfl
@[simp] theorem State.setInputs_rejcnt (ops : List HostOp) : (s.setInputs ops).rejcnt = s.rejcnt := rfl
@[simp] theorem State.setInputs_mu (ops : List HostOp) : (s.setInputs ops).mu = s.mu := rfl
@[simp] theorem State.setInputs_sigleaf (ops : List HostOp) : (s.setInputs ops).sigleaf = s.sigleaf := rfl
@[simp] theorem State.setInputs_sigmin (ops : List HostOp) : (s.setInputs ops).sigmin = s.sigmin := rfl
@[simp] theorem State.setInputs_leaf (ops : List HostOp) : (s.setInputs ops).leaf = s.leaf := rfl
@[simp] theorem State.setInputs_rngPos (ops : List HostOp) : (s.setInputs ops).rngPos = s.rngPos := rfl
@[simp] theorem State.setInputs_inputs (ops : List HostOp) : (s.setInputs ops).inputs = ops := rfl
@[simp] theorem State.setInputs_rdata (ops : List HostOp) : (s.setInputs ops).rdata = s.rdata := rfl
@[simp] theorem State.setInputs_now (ops : List HostOp) : (s.setInputs ops).now = s.now := rfl
@[simp] theorem State.setInputs_n (ops : List HostOp) : (s.setInputs ops).n = s.n := rfl
@[simp] theorem State.setInputs_byteAt (ops : List HostOp) (x : Nat) : (s.setInputs ops).byteAt x = s.byteAt x := rfl
@[simp] theorem State.setInputs_lane (ops : List HostOp) (x : Reg) (j : Nat) : (s.setInputs ops).lane x j = s.lane x j := rfl

@[simp] theorem State.setRdata_mem (w : Option Word) : (s.setRdata w).mem = s.mem := rfl
@[simp] theorem State.setRdata_tags (w : Option Word) : (s.setRdata w).tags = s.tags := rfl
@[simp] theorem State.setRdata_logn (w : Option Word) : (s.setRdata w).logn = s.logn := rfl
@[simp] theorem State.setRdata_blen (w : Option Word) : (s.setRdata w).blen = s.blen := rfl
@[simp] theorem State.setRdata_fault (w : Option Word) : (s.setRdata w).fault = s.fault := rfl
@[simp] theorem State.setRdata_res (w : Option Word) : (s.setRdata w).res = s.res := rfl
@[simp] theorem State.setRdata_fcmd (w : Option Word) : (s.setRdata w).fcmd = s.fcmd := rfl
@[simp] theorem State.setRdata_sz (w : Option Word) : (s.setRdata w).sz = s.sz := rfl
@[simp] theorem State.setRdata_rejcnt (w : Option Word) : (s.setRdata w).rejcnt = s.rejcnt := rfl
@[simp] theorem State.setRdata_mu (w : Option Word) : (s.setRdata w).mu = s.mu := rfl
@[simp] theorem State.setRdata_sigleaf (w : Option Word) : (s.setRdata w).sigleaf = s.sigleaf := rfl
@[simp] theorem State.setRdata_sigmin (w : Option Word) : (s.setRdata w).sigmin = s.sigmin := rfl
@[simp] theorem State.setRdata_leaf (w : Option Word) : (s.setRdata w).leaf = s.leaf := rfl
@[simp] theorem State.setRdata_rngPos (w : Option Word) : (s.setRdata w).rngPos = s.rngPos := rfl
@[simp] theorem State.setRdata_inputs (w : Option Word) : (s.setRdata w).inputs = s.inputs := rfl
@[simp] theorem State.setRdata_rdata (w : Option Word) : (s.setRdata w).rdata = w := rfl
@[simp] theorem State.setRdata_now (w : Option Word) : (s.setRdata w).now = s.now := rfl
@[simp] theorem State.setRdata_n (w : Option Word) : (s.setRdata w).n = s.n := rfl
@[simp] theorem State.setRdata_byteAt (w : Option Word) (x : Nat) : (s.setRdata w).byteAt x = s.byteAt x := rfl
@[simp] theorem State.setRdata_lane (w : Option Word) (x : Reg) (j : Nat) : (s.setRdata w).lane x j = s.lane x j := rfl

@[simp] theorem State.tick_mem : (s.tick).mem = s.mem := rfl
@[simp] theorem State.tick_tags : (s.tick).tags = s.tags := rfl
@[simp] theorem State.tick_logn : (s.tick).logn = s.logn := rfl
@[simp] theorem State.tick_blen : (s.tick).blen = s.blen := rfl
@[simp] theorem State.tick_fault : (s.tick).fault = s.fault := rfl
@[simp] theorem State.tick_res : (s.tick).res = s.res := rfl
@[simp] theorem State.tick_fcmd : (s.tick).fcmd = s.fcmd := rfl
@[simp] theorem State.tick_sz : (s.tick).sz = s.sz := rfl
@[simp] theorem State.tick_rejcnt : (s.tick).rejcnt = s.rejcnt := rfl
@[simp] theorem State.tick_mu : (s.tick).mu = s.mu := rfl
@[simp] theorem State.tick_sigleaf : (s.tick).sigleaf = s.sigleaf := rfl
@[simp] theorem State.tick_sigmin : (s.tick).sigmin = s.sigmin := rfl
@[simp] theorem State.tick_leaf : (s.tick).leaf = s.leaf := rfl
@[simp] theorem State.tick_rngPos : (s.tick).rngPos = s.rngPos := rfl
@[simp] theorem State.tick_inputs : (s.tick).inputs = s.inputs := rfl
@[simp] theorem State.tick_rdata : (s.tick).rdata = s.rdata := rfl
@[simp] theorem State.tick_now : (s.tick).now = s.now + 1 := rfl
@[simp] theorem State.tick_n : (s.tick).n = s.n := rfl

@[simp] theorem State.faultEntry_mem (f : PrauFault) (c : Word) : (s.faultEntry f c).mem = s.mem := rfl
@[simp] theorem State.faultEntry_tags (f : PrauFault) (c : Word) : (s.faultEntry f c).tags = s.tags := rfl
@[simp] theorem State.faultEntry_logn (f : PrauFault) (c : Word) : (s.faultEntry f c).logn = s.logn := rfl
@[simp] theorem State.faultEntry_blen (f : PrauFault) (c : Word) : (s.faultEntry f c).blen = s.blen := rfl
@[simp] theorem State.faultEntry_fault (f : PrauFault) (c : Word) : (s.faultEntry f c).fault = some f := rfl
@[simp] theorem State.faultEntry_res (f : PrauFault) (c : Word) : (s.faultEntry f c).res = s.res := rfl
@[simp] theorem State.faultEntry_fcmd (f : PrauFault) (c : Word) : (s.faultEntry f c).fcmd = c := rfl
@[simp] theorem State.faultEntry_sz (f : PrauFault) (c : Word) : (s.faultEntry f c).sz = s.sz := rfl
@[simp] theorem State.faultEntry_rejcnt (f : PrauFault) (c : Word) : (s.faultEntry f c).rejcnt = s.rejcnt := rfl
@[simp] theorem State.faultEntry_mu (f : PrauFault) (c : Word) : (s.faultEntry f c).mu = s.mu := rfl
@[simp] theorem State.faultEntry_sigleaf (f : PrauFault) (c : Word) : (s.faultEntry f c).sigleaf = s.sigleaf := rfl
@[simp] theorem State.faultEntry_sigmin (f : PrauFault) (c : Word) : (s.faultEntry f c).sigmin = s.sigmin := rfl
@[simp] theorem State.faultEntry_leaf (f : PrauFault) (c : Word) : (s.faultEntry f c).leaf = s.leaf := rfl
@[simp] theorem State.faultEntry_rngPos (f : PrauFault) (c : Word) : (s.faultEntry f c).rngPos = s.rngPos := rfl
@[simp] theorem State.faultEntry_inputs (f : PrauFault) (c : Word) : (s.faultEntry f c).inputs = s.inputs := rfl
@[simp] theorem State.faultEntry_rdata (f : PrauFault) (c : Word) : (s.faultEntry f c).rdata = s.rdata := rfl
@[simp] theorem State.faultEntry_now (f : PrauFault) (c : Word) : (s.faultEntry f c).now = s.now := rfl
@[simp] theorem State.faultEntry_n (f : PrauFault) (c : Word) : (s.faultEntry f c).n = s.n := rfl
@[simp] theorem State.faultEntry_byteAt (f : PrauFault) (c : Word) (x : Nat) : (s.faultEntry f c).byteAt x = s.byteAt x := rfl
@[simp] theorem State.faultEntry_lane (f : PrauFault) (c : Word) (x : Reg) (j : Nat) : (s.faultEntry f c).lane x j = s.lane x j := rfl

@[simp] theorem State.commitLanes_mem (rd : Reg) (t : Tag) (ls : List Lane) : (s.commitLanes rd t ls).mem = Memory.store s.mem (laneAddr rd 0) (laneBytes ls) := rfl
@[simp] theorem State.commitLanes_tags (rd : Reg) (t : Tag) (ls : List Lane) : (s.commitLanes rd t ls).tags = s.tags.set rd.val t rd.isLt := rfl
@[simp] theorem State.commitLanes_logn (rd : Reg) (t : Tag) (ls : List Lane) : (s.commitLanes rd t ls).logn = s.logn := rfl
@[simp] theorem State.commitLanes_blen (rd : Reg) (t : Tag) (ls : List Lane) : (s.commitLanes rd t ls).blen = s.blen := rfl
@[simp] theorem State.commitLanes_fault (rd : Reg) (t : Tag) (ls : List Lane) : (s.commitLanes rd t ls).fault = s.fault := rfl
@[simp] theorem State.commitLanes_res (rd : Reg) (t : Tag) (ls : List Lane) : (s.commitLanes rd t ls).res = .ok := rfl
@[simp] theorem State.commitLanes_fcmd (rd : Reg) (t : Tag) (ls : List Lane) : (s.commitLanes rd t ls).fcmd = s.fcmd := rfl
@[simp] theorem State.commitLanes_sz (rd : Reg) (t : Tag) (ls : List Lane) : (s.commitLanes rd t ls).sz = s.sz := rfl
@[simp] theorem State.commitLanes_rejcnt (rd : Reg) (t : Tag) (ls : List Lane) : (s.commitLanes rd t ls).rejcnt = s.rejcnt := rfl
@[simp] theorem State.commitLanes_mu (rd : Reg) (t : Tag) (ls : List Lane) : (s.commitLanes rd t ls).mu = s.mu := rfl
@[simp] theorem State.commitLanes_sigleaf (rd : Reg) (t : Tag) (ls : List Lane) : (s.commitLanes rd t ls).sigleaf = s.sigleaf := rfl
@[simp] theorem State.commitLanes_sigmin (rd : Reg) (t : Tag) (ls : List Lane) : (s.commitLanes rd t ls).sigmin = s.sigmin := rfl
@[simp] theorem State.commitLanes_leaf (rd : Reg) (t : Tag) (ls : List Lane) : (s.commitLanes rd t ls).leaf = s.leaf := rfl
@[simp] theorem State.commitLanes_rngPos (rd : Reg) (t : Tag) (ls : List Lane) : (s.commitLanes rd t ls).rngPos = s.rngPos := rfl
@[simp] theorem State.commitLanes_inputs (rd : Reg) (t : Tag) (ls : List Lane) : (s.commitLanes rd t ls).inputs = s.inputs := rfl
@[simp] theorem State.commitLanes_rdata (rd : Reg) (t : Tag) (ls : List Lane) : (s.commitLanes rd t ls).rdata = s.rdata := rfl
@[simp] theorem State.commitLanes_now (rd : Reg) (t : Tag) (ls : List Lane) : (s.commitLanes rd t ls).now = s.now := rfl
@[simp] theorem State.commitLanes_n (rd : Reg) (t : Tag) (ls : List Lane) : (s.commitLanes rd t ls).n = s.n := rfl

@[simp] theorem State.applyReset_mem : (s.applyReset).mem = [] := rfl
@[simp] theorem State.applyReset_tags : (s.applyReset).tags = Vector.replicate 8 .e := rfl
@[simp] theorem State.applyReset_logn : (s.applyReset).logn = 0 := rfl
@[simp] theorem State.applyReset_blen : (s.applyReset).blen = 0 := rfl
@[simp] theorem State.applyReset_fault : (s.applyReset).fault = none := rfl
@[simp] theorem State.applyReset_res : (s.applyReset).res = .ok := rfl
@[simp] theorem State.applyReset_fcmd : (s.applyReset).fcmd = 0 := rfl
@[simp] theorem State.applyReset_sz : (s.applyReset).sz = 0 := rfl
@[simp] theorem State.applyReset_rejcnt : (s.applyReset).rejcnt = 0 := rfl
@[simp] theorem State.applyReset_mu : (s.applyReset).mu = 0 := rfl
@[simp] theorem State.applyReset_sigleaf : (s.applyReset).sigleaf = 0 := rfl
@[simp] theorem State.applyReset_sigmin : (s.applyReset).sigmin = 0 := rfl
@[simp] theorem State.applyReset_leaf : (s.applyReset).leaf = none := rfl
@[simp] theorem State.applyReset_rngPos : (s.applyReset).rngPos = s.rngPos := rfl
@[simp] theorem State.applyReset_inputs : (s.applyReset).inputs = s.inputs := rfl
@[simp] theorem State.applyReset_rdata : (s.applyReset).rdata = none := rfl
@[simp] theorem State.applyReset_now : (s.applyReset).now = s.now := rfl

end Sys2Proof.Machine
end

