-- ==== Sys2Proof/Laws/Memory.lean ====
section
/-! SUPPORT. Storage: what a run of stored bytes reads as, that everything else reads as before, that the canonical form
is kept, and the round trip between numbers and bytes. -/

namespace Sys2Proof.Machine

/-! The canonical form. -/

theorem Memory.risingFrom_mono {m : Memory} {lo lo' : Nat} (h : lo' ≤ lo) (hm : Memory.risingFrom lo m = true) :
    Memory.risingFrom lo' m = true := by
  cases m with
  | nil => rfl
  | cons c m =>
    simp only [Memory.risingFrom, Bool.and_eq_true, decide_eq_true_eq] at hm ⊢
    exact ⟨by omega, hm.2⟩

theorem Memory.insert_risingFrom {m : Memory} {lo a : Nat} (b : Byte) (hm : Memory.risingFrom lo m = true) (ha : lo ≤ a) :
    Memory.risingFrom lo (Memory.insert m a b) = true := by
  induction m generalizing lo with
  | nil => simp [Memory.insert, Memory.risingFrom, ha]
  | cons c m ih =>
    simp only [Memory.risingFrom, Bool.and_eq_true, decide_eq_true_eq] at hm
    simp only [Memory.insert]
    split
    · simp only [Memory.risingFrom, Bool.and_eq_true, decide_eq_true_eq]
      exact ⟨ha, by omega, hm.2⟩
    · split
      · subst_vars
        simp only [Memory.risingFrom, Bool.and_eq_true, decide_eq_true_eq]
        exact ⟨ha, hm.2⟩
      · simp only [Memory.risingFrom, Bool.and_eq_true, decide_eq_true_eq]
        exact ⟨hm.1, ih hm.2 (by omega)⟩

/-- Listing a byte keeps the canonical form. -/
theorem Memory.insert_wf {m : Memory} (a : Nat) (b : Byte) (hm : Memory.wf m = true) :
    Memory.wf (Memory.insert m a b) = true :=
  Memory.insert_risingFrom b hm (Nat.zero_le a)

/-- Storing a run of bytes keeps the canonical form. -/
theorem Memory.store_wf {m : Memory} (a : Nat) (bs : List Byte) (hm : Memory.wf m = true) :
    Memory.wf (Memory.store m a bs) = true := by
  induction bs generalizing m a with
  | nil => exact hm
  | cons b bs ih => exact ih (a + 1) (Memory.insert_wf a b hm)

/-- Storage at reset is in canonical form. -/
theorem Memory.reset_wf : Memory.wf State.reset.mem = true := rfl

/-! Reading what was written. -/

theorem Memory.lookup_insert (m : Memory) (a x : Nat) (b : Byte) :
    Memory.lookup (Memory.insert m a b) x = if x = a then some b else Memory.lookup m x := by
  induction m with
  | nil => simp only [Memory.insert, Memory.lookup, eq_comm]
  | cons c m ih =>
    simp only [Memory.insert]
    split
    · simp only [Memory.lookup, eq_comm]
    · split
      · subst_vars
        simp only [Memory.lookup, eq_comm]
        split <;> simp_all
      · simp only [Memory.lookup, ih]
        split
        · split <;> first | rfl | omega
        · rfl

/-- A stored run reads back, and every other offset reads as before. -/
theorem Memory.lookup_store (m : Memory) (a x : Nat) (bs : List Byte) :
    Memory.lookup (Memory.store m a bs) x =
      if a ≤ x ∧ x < a + bs.length then bs[x - a]? else Memory.lookup m x := by
  induction bs generalizing m a with
  | nil => simp [Memory.store]
  | cons b bs ih =>
    rw [Memory.store, ih, Memory.lookup_insert]
    simp only [List.length_cons]
    by_cases h1 : a + 1 ≤ x ∧ x < a + 1 + bs.length
    · rw [if_pos h1, if_pos (by omega), show x - a = (x - (a + 1)) + 1 by omega, List.getElem?_cons_succ]
    · rw [if_neg h1]
      by_cases h2 : x = a
      · subst h2; simp
      · rw [if_neg h2, if_neg (by omega)]

/-- Bytes outside a stored run read as before. -/
theorem State.store_byteAt_outside (s : State) (a x : Nat) (bs : List Byte) (h : x < a ∨ a + bs.length ≤ x) :
    (s.store a bs).byteAt x = s.byteAt x := by
  simp only [State.byteAt, State.store_mem, State.store_now, Memory.lookup_store]
  rw [if_neg (by omega)]

/-- Bytes of a stored run read as stored. -/
theorem State.store_byteAt_inside (s : State) (a i : Nat) (bs : List Byte) (h : i < bs.length) :
    (s.store a bs).byteAt (a + i) = bs[i] := by
  simp only [State.byteAt, State.store_mem, State.store_now, Memory.lookup_store]
  rw [if_pos (by omega), Nat.add_sub_cancel_left, List.getElem?_eq_getElem h]
  rfl

@[simp] theorem State.bytesAt_length (s : State) (a k : Nat) : (s.bytesAt a k).length = k := by
  simp [State.bytesAt]

/-- Equal bytes give equal runs. -/
theorem State.bytesAt_congr {s t : State} {a k : Nat} (h : ∀ i < k, t.byteAt (a + i) = s.byteAt (a + i)) :
    t.bytesAt a k = s.bytesAt a k := by
  simp only [State.bytesAt, List.map_inj_left, List.mem_range]
  exact h

/-- A run of bytes that lies apart from a stored run reads as before. -/
theorem State.store_bytesAt_outside (s : State) (a x k : Nat) (bs : List Byte) (h : x + k ≤ a ∨ a + bs.length ≤ x) :
    (s.store a bs).bytesAt x k = s.bytesAt x k :=
  State.bytesAt_congr fun i hi => s.store_byteAt_outside a (x + i) bs (by omega)

/-- A part of a stored run reads as stored. -/
theorem State.store_bytesAt_inside (s : State) (a i k : Nat) (bs : List Byte) (h : i + k ≤ bs.length) :
    (s.store a bs).bytesAt (a + i) k = (bs.drop i).take k := by
  apply List.ext_getElem
  · simp; omega
  · intro j h1 h2
    have hj : j < k := by simpa using h1
    simp only [State.bytesAt, List.getElem_map, List.getElem_range, List.getElem_take, List.getElem_drop, Nat.add_assoc]
    exact s.store_byteAt_inside a (i + j) bs (by omega)

/-! Numbers and bytes. -/

@[simp] theorem leBytes_length (k v : Nat) : (leBytes k v).length = k := by
  induction k generalizing v with
  | zero => rfl
  | succ k ih => simp [leBytes, ih]

/-- The bytes of a number stand for it, up to the width stored. -/
theorem leNat_leBytes (k v : Nat) : leNat (leBytes k v) = v % 256 ^ k := by
  induction k generalizing v with
  | zero => simp [leBytes, leNat, Nat.mod_one]
  | succ k ih =>
    have h : v % 256 ^ (k + 1) = v % 256 + 256 * (v / 256 % 256 ^ k) := by
      rw [pow_succ, mul_comm (256 ^ k) 256, Nat.mod_mul]
    simp only [leBytes, leNat, ih, BitVec.toNat_ofNat, h]

@[simp] theorem laneBytes_length (ls : List Lane) : (laneBytes ls).length = 16 * ls.length := by
  induction ls with
  | nil => rfl
  | cons c ls ih => simp only [laneBytes, List.flatMap_cons, List.length_append, leBytes_length, List.length_cons] at ih ⊢; omega

/-- The bytes of one lane of a run of lanes. -/
theorem laneBytes_lane (ls : List Lane) (j : Nat) (h : j < ls.length) :
    ((laneBytes ls).drop (16 * j)).take 16 = leBytes 16 ls[j].toNat := by
  induction ls generalizing j with
  | nil => simp at h
  | cons c ls ih =>
    have hb : laneBytes (c :: ls) = leBytes 16 c.toNat ++ laneBytes ls := rfl
    cases j with
    | zero => rw [hb]; simp
    | succ j =>
      rw [hb, List.drop_append, List.drop_of_length_le (by simp), leBytes_length,
        show 16 * (j + 1) - 16 = 16 * j from rfl, List.nil_append]
      exact ih j (by simpa using h)

/-! Lanes. -/

theorem laneAddr_eq (r : Reg) (j : Nat) : laneAddr r j = laneAddr r 0 + 16 * j := by simp [laneAddr]; omega

@[simp] theorem State.putLanes_n (s : State) (r : Reg) (ls : List Lane) : (s.putLanes r ls).n = s.n := rfl

/-- A written lane reads as written. -/
theorem State.putLanes_lane (s : State) (r : Reg) (ls : List Lane) (j : Nat) (h : j < ls.length) :
    (s.putLanes r ls).lane r j = ls[j] := by
  have hb := s.store_bytesAt_inside (laneAddr r 0) (16 * j) 16 (laneBytes ls) (by simp; omega)
  rw [State.lane, State.putLanes, laneAddr_eq r j, hb, laneBytes_lane ls j h, leNat_leBytes]
  have := ls[j].isLt
  rw [Nat.mod_eq_of_lt (by omega)]
  simp

/-- Bytes outside the written lanes read as before. -/
theorem State.putLanes_byteAt (s : State) (r : Reg) (ls : List Lane) (a : Nat)
    (h : a < laneAddr r 0 ∨ laneAddr r ls.length ≤ a) : (s.putLanes r ls).byteAt a = s.byteAt a :=
  s.store_byteAt_outside _ _ _ (by rw [laneAddr_eq r ls.length] at h; simp; omega)

/-- The bytes of written lanes are listed. -/
theorem State.putLanes_listed (s : State) (r : Reg) (ls : List Lane) (j b : Nat) (hj : j < ls.length) (hb : b < 16) :
    (Memory.lookup (s.putLanes r ls).mem (laneAddr r j + b)).isSome := by
  have h : laneAddr r j + b - laneAddr r 0 < (laneBytes ls).length := by rw [laneAddr_eq r j, laneBytes_length]; omega
  rw [State.putLanes, State.store_mem, Memory.lookup_store, if_pos (by rw [laneAddr_eq r j] at h ⊢; omega),
    List.getElem?_eq_getElem h]
  rfl

/-- Lanes of another register read as before, when each register has its own 1024 lanes. -/
theorem State.putLanes_lane_other (s : State) (r r' : Reg) (ls : List Lane) (j : Nat) (hr : r' ≠ r)
    (hl : ls.length ≤ 1024) (hj : j < 1024) : (s.putLanes r ls).lane r' j = s.lane r' j := by
  have : r.val ≠ r'.val := fun h => hr (Fin.ext h.symm)
  unfold State.lane State.putLanes
  rw [s.store_bytesAt_outside]
  simp only [laneAddr, laneBytes_length]
  omega

end Sys2Proof.Machine
end

