-- ==== Sys2Proof/Laws/Command.lean ====
section
/-! SUPPORT. The configuration of this hardware, and the procedure of every command: each way it can end, what its checks
answer, and what committing lanes does. -/

namespace Sys2Proof

/-! The configuration of this hardware, field by field. -/

@[simp] theorem Config.prau_params : Config.prau.params = Config.hw := rfl
@[simp] theorem Config.prau_num : Config.prau.num = Config.num := rfl
@[simp] theorem Config.prau_leafAttempt : Config.prau.leafAttempt = Config.leafAttempt := rfl
@[simp] theorem Config.prau_base : Config.prau.base = Config.base := rfl
@[simp] theorem Config.num_fadd : Config.num.fadd = Machine.fadd := rfl
@[simp] theorem Config.num_fsub : Config.num.fsub = Machine.fsub := rfl
@[simp] theorem Config.num_fmul : Config.num.fmul = Machine.fmul := rfl
@[simp] theorem Config.num_fneg : Config.num.fneg = Machine.fneg := rfl
@[simp] theorem Config.num_i2f : Config.num.i2f = Machine.i2f := rfl
@[simp] theorem Config.num_fround : Config.num.fround = Machine.fround := rfl

end Sys2Proof

namespace Sys2Proof.Machine

/-! Checks. -/

theorem firstFault_none {cs : List (Option PrauFault)} (h : ∀ c ∈ cs, c = none) : firstFault cs = none := by
  induction cs with
  | nil => rfl
  | cons c cs ih =>
    rw [h c (by simp)]
    exact ih fun d hd => h d (by simp [hd])

@[simp] theorem firstFault_nil : firstFault [] = none := rfl

@[simp] theorem firstFault_cons_none (cs : List (Option PrauFault)) : firstFault (none :: cs) = firstFault cs := rfl

@[simp] theorem firstFault_cons_some (f : PrauFault) (cs : List (Option PrauFault)) :
    firstFault (some f :: cs) = some f := rfl

theorem legalCheck_wellFormed {i : Instr} (h : WellFormed i = true) : legalCheck i = none := by simp [legalCheck, h]

theorem needsN_zero {s : State} (h : s.logn = 0#4) : needsN s = some .invalidParam := by simp [needsN, h]

theorem needsN_configured {s : State} (h : s.logn ≠ 0#4) : needsN s = none := by simp [needsN, h]

theorem tagCheck_unwritten {s : State} {sources : List Reg} {admitted : List (List Tag)}
    (h : ∃ r ∈ sources, s.tags[r] = .e) : tagCheck s sources admitted = some .unwritten := by
  rw [tagCheck, if_pos (by simpa using h)]

theorem tagCheck_domain {s : State} {sources : List Reg} {admitted : List (List Tag)}
    (he : ∀ r ∈ sources, s.tags[r] ≠ .e) (h : (sources.map fun r => s.tags[r]) ∉ admitted) :
    tagCheck s sources admitted = some .domain := by
  rw [tagCheck, if_neg (by simpa using he), if_neg (by simpa using h)]

theorem tagCheck_admitted {s : State} {sources : List Reg} {admitted : List (List Tag)}
    (he : ∀ r ∈ sources, s.tags[r] ≠ .e) (h : (sources.map fun r => s.tags[r]) ∈ admitted) :
    tagCheck s sources admitted = none := by
  rw [tagCheck, if_neg (by simpa using he), if_pos (by simpa using h)]

/-! The procedure. -/

/-- Step 0: a faulted machine drops the command. -/
theorem runCommand_dropped {i : Instr} {s : State} {checks : List (Option PrauFault)} {commit : State → State}
    (h : s.fault ≠ none) : runCommand i s checks commit = .next s := by
  simp [runCommand, Option.isSome_iff_ne_none.mpr h]

/-- Steps 1 to 4: the first failing check ends the command in fault entry. -/
theorem runCommand_faults {i : Instr} {s : State} {checks : List (Option PrauFault)} {commit : State → State}
    {f : PrauFault} (h : s.fault = none) (hc : firstFault (legalCheck i :: checks) = some f) :
    runCommand i s checks commit = .next (s.faultEntry f (encode i)) := by
  simp [runCommand, h, hc]

/-- Step 5: with no failing check the command commits. -/
theorem runCommand_commits {i : Instr} {s : State} {checks : List (Option PrauFault)} {commit : State → State}
    (h : s.fault = none) (hc : firstFault (legalCheck i :: checks) = none) :
    runCommand i s checks commit = .next (commit s) := by
  simp [runCommand, h, hc]

/-- All a command can do: it is dropped, it faults, or it commits; it always answers a next state. -/
theorem runCommand_cases (i : Instr) (s : State) (checks : List (Option PrauFault)) (commit : State → State) :
    (s.fault ≠ none ∧ runCommand i s checks commit = .next s) ∨
    (s.fault = none ∧ ∃ f, firstFault (legalCheck i :: checks) = some f ∧
      runCommand i s checks commit = .next (s.faultEntry f (encode i))) ∨
    (s.fault = none ∧ firstFault (legalCheck i :: checks) = none ∧
      runCommand i s checks commit = .next (commit s)) := by
  by_cases hf : s.fault = none
  · cases hc : firstFault (legalCheck i :: checks) with
    | none => exact .inr (.inr ⟨hf, rfl, runCommand_commits hf hc⟩)
    | some f => exact .inr (.inl ⟨hf, f, rfl, runCommand_faults hf hc⟩)
  · exact .inl ⟨hf, runCommand_dropped hf⟩

/-- The same, read off an answered next state. -/
theorem runCommand_next {i : Instr} {s t : State} {checks : List (Option PrauFault)} {commit : State → State}
    (h : runCommand i s checks commit = .next t) :
    (s.fault ≠ none ∧ t = s) ∨
    (s.fault = none ∧ ∃ f, firstFault (legalCheck i :: checks) = some f ∧ t = s.faultEntry f (encode i)) ∨
    (s.fault = none ∧ firstFault (legalCheck i :: checks) = none ∧ t = commit s) := by
  rcases runCommand_cases i s checks commit with ⟨hf, h'⟩ | ⟨hf, f, hc, h'⟩ | ⟨hf, hc, h'⟩ <;>
    rw [h', Host.Outcome.next.injEq] at h <;> subst h
  · exact .inl ⟨hf, rfl⟩
  · exact .inr (.inl ⟨hf, f, hc, rfl⟩)
  · exact .inr (.inr ⟨hf, hc, rfl⟩)

/-- The commands of this hardware are those of its configuration. -/
theorem exec_eq_execIn (i : Instr) (s : State) : exec i s = execIn Config.prau i s := by cases i <;> rfl

/-- Every command is an instance of the procedure. -/
theorem execIn_eq_runCommand (cfg : Configuration) (i : Instr) (s : State) :
    ∃ checks commit, execIn cfg i s = runCommand i s checks commit := by
  cases i <;> simp only [execIn, execNop, execCfg, execTag, execMov, execNtt, execIntt, execAddq, execSubq, execNegq,
    execMuln, execDivn, execMulq, execDivq, execReduce, execCenter, execFft, execIfft, execAddf, execSubf, execNegf,
    execMulf, execRound, execSamplez, execCompress, execDecompress] <;> exact ⟨_, _, rfl⟩

/-- The same for this hardware. -/
theorem exec_eq_runCommand (i : Instr) (s : State) : ∃ checks commit, exec i s = runCommand i s checks commit :=
  exec_eq_execIn i s ▸ execIn_eq_runCommand Config.prau i s

/-- Every command answers a next state. -/
theorem execIn_next (cfg : Configuration) (i : Instr) (s : State) : ∃ t, execIn cfg i s = .next t := by
  obtain ⟨checks, commit, h⟩ := execIn_eq_runCommand cfg i s
  rcases runCommand_cases i s checks commit with ⟨-, h'⟩ | ⟨-, f, -, h'⟩ | ⟨-, -, h'⟩ <;> exact ⟨_, h.trans h'⟩

/-- The same for this hardware. -/
theorem exec_next (i : Instr) (s : State) : ∃ t, exec i s = .next t := exec_eq_execIn i s ▸ execIn_next Config.prau i s

/-- Step 0 for every command. -/
theorem execIn_dropped (cfg : Configuration) {i : Instr} {s : State} (h : s.fault ≠ none) :
    execIn cfg i s = .next s := by
  obtain ⟨checks, commit, h'⟩ := execIn_eq_runCommand cfg i s
  exact h'.trans (runCommand_dropped h)

/-- The same for this hardware. -/
theorem exec_dropped {i : Instr} {s : State} (h : s.fault ≠ none) : exec i s = .next s :=
  (exec_eq_execIn i s).trans (execIn_dropped Config.prau h)

/-! Committing lanes. -/

theorem State.commitLanes_lane (s : State) (rd : Reg) (t : Tag) (ls : List Lane) (j : Nat) (h : j < ls.length) :
    (s.commitLanes rd t ls).lane rd j = ls[j] := s.putLanes_lane rd ls j h

theorem State.commitLanes_byteAt (s : State) (rd : Reg) (t : Tag) (ls : List Lane) (a : Nat)
    (h : a < laneAddr rd 0 ∨ laneAddr rd ls.length ≤ a) : (s.commitLanes rd t ls).byteAt a = s.byteAt a :=
  s.putLanes_byteAt rd ls a h

theorem State.commitLanes_lane_other (s : State) (rd r : Reg) (t : Tag) (ls : List Lane) (j : Nat) (hr : r ≠ rd)
    (hl : ls.length ≤ 1024) (hj : j < 1024) : (s.commitLanes rd t ls).lane r j = s.lane r j :=
  s.putLanes_lane_other rd r ls j hr hl hj

@[simp] theorem State.lanes_length (s : State) (r : Reg) : (s.lanes r).length = s.n := by simp [State.lanes]

@[simp] theorem State.lanewise1_length (s : State) (a : Reg) (f : Nat → Lane → Lane) :
    (s.lanewise1 a f).length = s.n := by simp [State.lanewise1]

@[simp] theorem State.lanewise2_length (s : State) (a b : Reg) (f : Nat → Lane → Lane → Lane) :
    (s.lanewise2 a b f).length = s.n := by simp [State.lanewise2]

/-! Typed lanes (R24): what is written reads back, and the unused words are zero. -/

theorem qOf_qLane {v : Nat} (h : v < 2 ^ 32) : qOf (qLane v) = v := by
  simp only [qOf, laneWord, qLane, BitVec.extractLsb'_toNat, BitVec.toNat_setWidth, BitVec.toNat_ofNat]
  norm_num
  omega

theorem zOf_zLane {z : Int} (h : -2 ^ 31 ≤ z ∧ z < 2 ^ 31) : zOf (zLane z) = z := by
  have hw : laneWord (zLane z) 0 = BitVec.ofInt 32 z := by
    apply BitVec.eq_of_toNat_eq
    have := (BitVec.ofInt 32 z).isLt
    simp only [laneWord, zLane, BitVec.extractLsb'_toNat, BitVec.toNat_setWidth]
    norm_num
    omega
  rw [zOf, hw, BitVec.toInt_ofInt]
  exact Int.bmod_eq_of_le (by norm_num at h ⊢; omega) (by norm_num at h ⊢; omega)

/-- A narrow pattern leaves the words above it zero. -/
theorem laneWord_setWidth {w k : Nat} (x : BitVec w) (h : w ≤ 32 * k) : laneWord (x.setWidth 128) k = 0 := by
  apply BitVec.eq_of_toNat_eq
  have hx : x.toNat < 2 ^ (32 * k) := lt_of_lt_of_le x.isLt (Nat.pow_le_pow_right (by norm_num) h)
  have hm : x.toNat % 2 ^ 128 < 2 ^ (32 * k) := lt_of_le_of_lt (Nat.mod_le _ _) hx
  simp only [laneWord, BitVec.extractLsb'_toNat, BitVec.toNat_setWidth, Nat.shiftRight_eq_div_pow,
    Nat.div_eq_of_lt hm]
  rfl

theorem rOf_rLane (x : F64) : rOf (rLane x) = x := by
  have h := x.isLt
  apply BitVec.eq_of_toNat_eq
  simp only [rOf, rLane, laneWord, BitVec.toNat_append, BitVec.extractLsb'_toNat, BitVec.toNat_setWidth,
    Nat.shiftRight_eq_div_pow]
  rw [← Nat.shiftLeft_add_eq_or_of_lt (by norm_num; omega), Nat.shiftLeft_eq]
  norm_num
  omega

end Sys2Proof.Machine
end

