-- ==== Sys2Proof/Laws/Step.lean ====
section
/-! SUPPORT. What one step does, case by case, for any configuration: the next move of an idle machine, no move, a running
command, a reset. -/

namespace Sys2Proof.Machine

/-- The step of this hardware is the step of its configuration. -/
theorem step_eq_stepIn (s : State) : step s = stepIn Config.prau s := rfl

/-- No command runs and the host has a move: the step makes it. -/
theorem stepIn_move (cfg : Configuration) {s : State} {op : HostOp} {rest : List HostOp} (hl : s.leaf = none)
    (hi : s.inputs = op :: rest) :
    stepIn cfg s = ticked (perform cfg op ((s.setInputs rest).setRdata none)) := by
  simp only [stepIn, advance, hl, hi]

/-- No command runs and the host has no move: the step is idle. -/
theorem stepIn_idle (cfg : Configuration) {s : State} (hl : s.leaf = none) (hi : s.inputs = []) :
    stepIn cfg s = .next (s.setRdata none).tick := by
  simp only [stepIn, advance, hl, hi, ticked]

/-- The next move is `rst`: the step resets, whatever runs. -/
theorem stepIn_reset (cfg : Configuration) {s : State} {rest : List HostOp} (hi : s.inputs = .rst :: rest) :
    stepIn cfg s = .next (s.setInputs rest).applyReset.tick := by
  cases hl : s.leaf <;> simp only [stepIn, advance, hl, hi, ticked, perform, State.applyReset, State.setRdata, State.setInputs]

/-- A command runs and the next move is not `rst`: the command goes on; an `idle` is used up, every other move waits. -/
theorem stepIn_running (cfg : Configuration) {s : State} {run : LeafRun} (hl : s.leaf = some run)
    (hr : s.inputs.head? ≠ some .rst) :
    stepIn cfg s = .next ((((s.setInputs (if s.inputs.head? = some .idle then s.inputs.tail else s.inputs)).setRdata
      none).leafAdvance cfg run).tick) := by
  rcases hi : s.inputs with _ | ⟨op, rest⟩
  · simp only [stepIn, advance, hl, hi, ticked]
    rw [if_neg (by simp), ← hi]
    rfl
  · cases op <;> simp only [stepIn, advance, hl, hi, ticked] <;> simp [hi] at hr ⊢ <;> rw [← hi] <;> rfl

/-- The host writes a word that decodes to `CMD`: the step runs the command. -/
theorem step_command {s : State} {c : Word} {i : Instr} {rest : List HostOp} (hl : s.leaf = none)
    (hi : s.inputs = .write cmdOffset c :: rest) (hd : decode c = .ok i) :
    step s = ticked (exec i ((s.setInputs rest).setRdata none)) := by
  rw [step_eq_stepIn, stepIn_move _ hl hi, exec_eq_execIn]
  simp only [perform, hostWrite, submit, hd, if_pos, show aligned cmdOffset = true from rfl]

/-- A write to `CMD` while faulted is dropped, legal or not. -/
theorem submit_dropped (cfg : Configuration) (c : Word) {s : State} (h : s.fault ≠ none) : submit cfg c s = .next s := by
  unfold submit
  split
  · exact execIn_dropped cfg h
  · rw [if_pos (Option.isSome_iff_ne_none.mpr h)]

end Sys2Proof.Machine
end

