-- ==== Sys2Proof/Laws/Bus.lean ====
section
/-! SUPPORT. The register space by kind of offset: windows, reserved offsets, and writes that are neither a command nor a
reset. -/

namespace Sys2Proof.Machine

theorem inBB_iff {a : Nat} : inBB a = true ↔ 0x1000 ≤ a ∧ a < 0x2000 := by
  rw [inBB, Bool.and_eq_true, decide_eq_true_iff, decide_eq_true_iff]

theorem inPoly_iff {a : Nat} : inPoly a = true ↔ 0x20000 ≤ a ∧ a < 0x40000 := by
  rw [inPoly, Bool.and_eq_true, decide_eq_true_iff, decide_eq_true_iff]

/-- Above the registers an offset reads as storage in a window and as 0 outside. -/
theorem State.readOffset_above (s : State) {off : Offset} (h : 0x40 ≤ off.toNat) :
    s.readOffset off = if (inBB off.toNat || inPoly off.toNat) = true then s.wordAt off.toNat else 0 := by
  generalize ha : off.toNat = a at h
  unfold State.readOffset
  rw [ha]
  split <;> first | rfl | (exfalso; omega)

/-- In a window an offset reads as the word of storage. -/
theorem State.readOffset_window (s : State) {off : Offset} (h : inBB off.toNat = true ∨ inPoly off.toNat = true) :
    s.readOffset off = s.wordAt off.toNat := by
  have h' : 0x40 ≤ off.toNat := by
    rw [inBB_iff, inPoly_iff] at h
    omega
  rw [s.readOffset_above h', if_pos (by rw [Bool.or_eq_true]; exact h)]

/-- Above the registers outside the windows an offset reads 0. -/
theorem State.readOffset_reserved (s : State) {off : Offset} (h : 0x40 ≤ off.toNat)
    (hb : inBB off.toNat = false) (hp : inPoly off.toNat = false) : s.readOffset off = 0 := by
  rw [s.readOffset_above h, if_neg (by simp only [hb, hp, Bool.or_self]; decide)]

/-- Above the registers a write stores into a window, makes a written register `RAW`, or is ignored. -/
theorem State.writeStorage_above (s : State) {off : Offset} (v : Word) (h : 0x40 ≤ off.toNat) :
    s.writeStorage off v =
      if inBB off.toNat = true then s.store off.toNat (leBytes 4 v.toNat)
      else if inPoly off.toNat = true then (s.store off.toNat (leBytes 4 v.toNat)).setTag (polyReg off.toNat) .raw
      else s := by
  generalize ha : off.toNat = a at h
  unfold State.writeStorage
  rw [ha]
  split <;> first | rfl | (exfalso; omega)

/-- While faulted a write to anything but `CTRL` is dropped. -/
theorem hostWrite_dropped (cfg : Configuration) {off : Offset} (v : Word) {s : State} (h : s.fault ≠ none)
    (hc : off ≠ ctrlOffset) :
    hostWrite cfg off v s = .next s := by
  unfold hostWrite
  by_cases hcmd : off = cmdOffset
  · rw [if_pos hcmd, submit_dropped cfg v h]
  · rw [if_neg hcmd, if_neg hc, if_pos (Option.isSome_iff_ne_none.mpr h)]

/-- In an unfaulted machine a write that is neither a command nor to `CTRL` is stored. -/
theorem hostWrite_stored (cfg : Configuration) {off : Offset} (v : Word) {s : State} (h : s.fault = none)
    (hcmd : off ≠ cmdOffset) (hc : off ≠ ctrlOffset) : hostWrite cfg off v s = .next (s.writeStorage off v) := by
  rw [hostWrite, if_neg hcmd, if_neg hc, h, if_neg (by decide)]

/-! Addresses (R5, R50). -/

/-- Every offset is the offset of its address. -/
theorem offsetOf_base_add (cfg : Configuration) (off : Offset) : offsetOf cfg (cfg.base + off.toNat) = some off := by
  have h := off.isLt
  rw [offsetOf, if_pos (by omega), Nat.add_sub_cancel_left, BitVec.ofNat_toNat, BitVec.setWidth_eq]

/-- An address that has an offset is that far from `BASE`. -/
theorem offsetOf_some {cfg : Configuration} {addr : Nat} {off : Offset} (h : offsetOf cfg addr = some off) :
    addr = cfg.base + off.toNat := by
  rw [offsetOf] at h
  split at h
  · rw [Option.some.injEq] at h
    rw [← h, BitVec.toNat_ofNat]
    omega
  · cases h

end Sys2Proof.Machine
end

