-- ==== Sys2Proof/Laws/Decode.lean ====
section
/-! SUPPORT. The fields of a word, as numbers, and the fields of a word put together from its fields. -/

namespace Sys2Proof

variable {op rd rs1 rs2 imm : Nat}

theorem opField_eq (w : Word) : opField w = w.toNat / 16777216 % 256 := by
  simp only [opField, BitVec.extractLsb'_toNat, Nat.shiftRight_eq_div_pow]

theorem rdField_eq (w : Word) : rdField w = w.toNat / 1048576 % 16 := by
  simp only [rdField, BitVec.extractLsb'_toNat, Nat.shiftRight_eq_div_pow]

theorem rs1Field_eq (w : Word) : rs1Field w = w.toNat / 65536 % 16 := by
  simp only [rs1Field, BitVec.extractLsb'_toNat, Nat.shiftRight_eq_div_pow]

theorem rs2Field_eq (w : Word) : rs2Field w = w.toNat / 4096 % 16 := by
  simp only [rs2Field, BitVec.extractLsb'_toNat, Nat.shiftRight_eq_div_pow]

theorem immField_toNat (w : Word) : (immField w).toNat = w.toNat % 4096 := by
  simp only [immField, BitVec.extractLsb'_toNat, Nat.shiftRight_zero]

theorem wordOf_toNat (hop : op < 256) (hrd : rd < 16) (hrs1 : rs1 < 16) (hrs2 : rs2 < 16) (himm : imm < 4096) :
    (wordOf op rd rs1 rs2 imm).toNat = op * 16777216 + rd * 1048576 + rs1 * 65536 + rs2 * 4096 + imm := by
  simp only [wordOf, BitVec.toNat_ofNat]
  omega

theorem opField_wordOf (hop : op < 256) (hrd : rd < 16) (hrs1 : rs1 < 16) (hrs2 : rs2 < 16) (himm : imm < 4096) :
    opField (wordOf op rd rs1 rs2 imm) = op := by
  rw [opField_eq, wordOf_toNat hop hrd hrs1 hrs2 himm]
  omega

theorem rdField_wordOf (hop : op < 256) (hrd : rd < 16) (hrs1 : rs1 < 16) (hrs2 : rs2 < 16) (himm : imm < 4096) :
    rdField (wordOf op rd rs1 rs2 imm) = rd := by
  rw [rdField_eq, wordOf_toNat hop hrd hrs1 hrs2 himm]
  omega

theorem rs1Field_wordOf (hop : op < 256) (hrd : rd < 16) (hrs1 : rs1 < 16) (hrs2 : rs2 < 16) (himm : imm < 4096) :
    rs1Field (wordOf op rd rs1 rs2 imm) = rs1 := by
  rw [rs1Field_eq, wordOf_toNat hop hrd hrs1 hrs2 himm]
  omega

theorem rs2Field_wordOf (hop : op < 256) (hrd : rd < 16) (hrs1 : rs1 < 16) (hrs2 : rs2 < 16) (himm : imm < 4096) :
    rs2Field (wordOf op rd rs1 rs2 imm) = rs2 := by
  rw [rs2Field_eq, wordOf_toNat hop hrd hrs1 hrs2 himm]
  omega

theorem immField_wordOf (hop : op < 256) (hrd : rd < 16) (hrs1 : rs1 < 16) (hrs2 : rs2 < 16) (himm : imm < 4096) :
    immField (wordOf op rd rs1 rs2 imm) = BitVec.ofNat 12 imm := by
  apply BitVec.eq_of_toNat_eq
  rw [immField_toNat, wordOf_toNat hop hrd hrs1 hrs2 himm, BitVec.toNat_ofNat]
  omega

theorem regOf_val (r : Reg) : regOf r.val = .ok r := by simp [regOf, r.isLt]

theorem Tag.code_lt (t : Tag) : t.code < 4096 := by cases t <;> decide

end Sys2Proof
end

