-- ==== Sys2Proof/Laws/PerInstr.lean ====
section
/-! SUPPORT. A fact about each command as syntax: its word carries its row's `op` number (`30_encoding.md` R70, R76). -/

namespace Sys2Proof.Laws.OpcodeRow

/-- Bits 31:24 of the word are the row's `op`. -/
def Statement (i : Instr) : Prop := opField (encode i) = opcodeOf i

/-- A register index fits its 4-bit field. -/
theorem reg_fits (r : Reg) : r.val < 16 := by omega

/-- An `op` number fits its 8-bit field. -/
theorem opcode_fits (i : Instr) : opcodeOf i < 256 := by cases i <;> simp [opcodeOf]

theorem nop : Statement (.nop) :=
  opField_wordOf (opcode_fits _) (by decide) (by decide) (by decide) (by decide)

theorem cfg (imm : BitVec 12) : Statement (.cfg imm) :=
  opField_wordOf (opcode_fits _) (by decide) (by decide) (by decide) imm.isLt

theorem tag (rd : Reg) (t : Tag) : Statement (.tag rd t) :=
  opField_wordOf (opcode_fits _) (reg_fits rd) (by decide) (by decide) (Tag.code_lt t)

theorem mov (rd : Reg) (rs1 : Reg) : Statement (.mov rd rs1) :=
  opField_wordOf (opcode_fits _) (reg_fits rd) (reg_fits rs1) (by decide) (by decide)

theorem ntt (rd : Reg) (rs1 : Reg) : Statement (.ntt rd rs1) :=
  opField_wordOf (opcode_fits _) (reg_fits rd) (reg_fits rs1) (by decide) (by decide)

theorem intt (rd : Reg) (rs1 : Reg) : Statement (.intt rd rs1) :=
  opField_wordOf (opcode_fits _) (reg_fits rd) (reg_fits rs1) (by decide) (by decide)

theorem addq (rd : Reg) (rs1 : Reg) (rs2 : Reg) : Statement (.addq rd rs1 rs2) :=
  opField_wordOf (opcode_fits _) (reg_fits rd) (reg_fits rs1) (reg_fits rs2) (by decide)

theorem subq (rd : Reg) (rs1 : Reg) (rs2 : Reg) : Statement (.subq rd rs1 rs2) :=
  opField_wordOf (opcode_fits _) (reg_fits rd) (reg_fits rs1) (reg_fits rs2) (by decide)

theorem negq (rd : Reg) (rs1 : Reg) : Statement (.negq rd rs1) :=
  opField_wordOf (opcode_fits _) (reg_fits rd) (reg_fits rs1) (by decide) (by decide)

theorem muln (rd : Reg) (rs1 : Reg) (rs2 : Reg) : Statement (.muln rd rs1 rs2) :=
  opField_wordOf (opcode_fits _) (reg_fits rd) (reg_fits rs1) (reg_fits rs2) (by decide)

theorem divn (rd : Reg) (rs1 : Reg) (rs2 : Reg) : Statement (.divn rd rs1 rs2) :=
  opField_wordOf (opcode_fits _) (reg_fits rd) (reg_fits rs1) (reg_fits rs2) (by decide)

theorem mulq (rd : Reg) (rs1 : Reg) (rs2 : Reg) : Statement (.mulq rd rs1 rs2) :=
  opField_wordOf (opcode_fits _) (reg_fits rd) (reg_fits rs1) (reg_fits rs2) (by decide)

theorem divq (rd : Reg) (rs1 : Reg) (rs2 : Reg) : Statement (.divq rd rs1 rs2) :=
  opField_wordOf (opcode_fits _) (reg_fits rd) (reg_fits rs1) (reg_fits rs2) (by decide)

theorem reduce (rd : Reg) (rs1 : Reg) : Statement (.reduce rd rs1) :=
  opField_wordOf (opcode_fits _) (reg_fits rd) (reg_fits rs1) (by decide) (by decide)

theorem center (rd : Reg) (rs1 : Reg) : Statement (.center rd rs1) :=
  opField_wordOf (opcode_fits _) (reg_fits rd) (reg_fits rs1) (by decide) (by decide)

theorem fft (rd : Reg) (rs1 : Reg) : Statement (.fft rd rs1) :=
  opField_wordOf (opcode_fits _) (reg_fits rd) (reg_fits rs1) (by decide) (by decide)

theorem ifft (rd : Reg) (rs1 : Reg) : Statement (.ifft rd rs1) :=
  opField_wordOf (opcode_fits _) (reg_fits rd) (reg_fits rs1) (by decide) (by decide)

theorem addf (rd : Reg) (rs1 : Reg) (rs2 : Reg) : Statement (.addf rd rs1 rs2) :=
  opField_wordOf (opcode_fits _) (reg_fits rd) (reg_fits rs1) (reg_fits rs2) (by decide)

theorem subf (rd : Reg) (rs1 : Reg) (rs2 : Reg) : Statement (.subf rd rs1 rs2) :=
  opField_wordOf (opcode_fits _) (reg_fits rd) (reg_fits rs1) (reg_fits rs2) (by decide)

theorem negf (rd : Reg) (rs1 : Reg) : Statement (.negf rd rs1) :=
  opField_wordOf (opcode_fits _) (reg_fits rd) (reg_fits rs1) (by decide) (by decide)

theorem mulf (rd : Reg) (rs1 : Reg) (rs2 : Reg) : Statement (.mulf rd rs1 rs2) :=
  opField_wordOf (opcode_fits _) (reg_fits rd) (reg_fits rs1) (reg_fits rs2) (by decide)

theorem round (rd : Reg) (rs1 : Reg) : Statement (.round rd rs1) :=
  opField_wordOf (opcode_fits _) (reg_fits rd) (reg_fits rs1) (by decide) (by decide)

theorem samplez : Statement (.samplez) :=
  opField_wordOf (opcode_fits _) (by decide) (by decide) (by decide) (by decide)

theorem compress (rs1 : Reg) (imm : BitVec 12) : Statement (.compress rs1 imm) :=
  opField_wordOf (opcode_fits _) (by decide) (reg_fits rs1) (by decide) imm.isLt

theorem decompress (rd : Reg) (imm : BitVec 12) : Statement (.decompress rd imm) :=
  opField_wordOf (opcode_fits _) (reg_fits rd) (by decide) (by decide) imm.isLt

end Sys2Proof.Laws.OpcodeRow
end

