-- ==== Sys2Proof/Tests/Slice0.lean ====
section
/-! SUPPORT. The model's own tests. Expected values are those of `95_test_vectors.md`, named by their id, or are worked by hand
from the rule named; then one witness for the hypotheses of each statement that has any. -/

namespace Sys2Proof.Tests

open Sys2Proof.Machine Sys2Proof.Safety

/-! The tests are checked one after another, each with a small evaluation. -/
set_option Elab.async false

/-! Small states. -/

/-- An unfaulted machine with the given `LOGN` and tags of `P0`, `P1`, ...; nothing is listed in storage. -/
def ready (logn : Nat) (tags : List Tag) : State :=
  { State.reset with logn := BitVec.ofNat 4 logn, tags := Vector.ofFn fun i => tags.getD i.val .e }

/-- The same machine with lanes stored in a register, and its tag. -/
def load (s : State) (r : Reg) (t : Tag) (ls : List Lane) : State := (s.putLanes r ls).setTag r t

/-- The state an outcome goes on in; the state after reset where it does not. -/
def after (o : Host.Outcome State Fault Refusal) : State :=
  match o with
  | .next s => s
  | .fault _ => State.reset
  | .refused _ => State.reset

/-- The state an outcome goes on in, if it does. -/
def nextOf (o : Host.Outcome State Fault Refusal) : Option State :=
  match o with
  | .next s => some s
  | .fault _ => none
  | .refused _ => none

/-- `P0` holds residues. -/
def single (logn : Nat) (t : Tag) (a : List Nat) : State := load (ready logn []) 0 t (a.map qLane)

/-- `P0` and `P1` hold residues. -/
def pair (logn : Nat) (t : Tag) (a b : List Nat) : State :=
  load (load (ready logn []) 0 t (a.map qLane)) 1 t (b.map qLane)

/-- `P0` holds integers. -/
def ints (logn : Nat) (a : List Int) : State := load (ready logn []) 0 .z (a.map zLane)

/-- `P0` holds reals. -/
def reals (logn : Nat) (a : List F64) : State := load (ready logn []) 0 .r (a.map rLane)

/-- `P0` and `P1` hold complex values. -/
def complexes (a b : List (F64 × F64)) : State :=
  load (load (ready 1 []) 0 .f (a.map fLane)) 1 .f (b.map fLane)

/-- The operands of T6.5: `MU = 2.5`, `SIGLEAF = 1.5`, `SIGMIN = 1.25`. -/
def leafOperands : State :=
  { State.reset with mu := 0x4004000000000000, sigleaf := 0x3FF8000000000000, sigmin := 0x3FF4000000000000 }

/-- A faulted machine: `DIV_BY_ZERO` of P3 step 8. -/
def faulted : State := (ready 1 []).faultEntry .divByZero 0x18502000#32

/-! Well-formedness: the one check. -/

theorem test_illformed_empty_refused : WellFormed (.tag 0 .e) = false := by decide
theorem test_illformed_raw_refused : WellFormed (.tag 7 .raw) = false := by decide
theorem test_illformed_exec_is_illegal :
    nextOf (exec (.tag 0 .raw) (ready 1 [])) = some ((ready 1 []).faultEntry .illegalCmd 0x02000006#32) := by decide +kernel

/-! Decoding: each constructor by its word, `op`, `rd`, `rs1`, `rs2`, `imm` written out from R70 and R76. -/

/-- The five fields of R70 side by side. -/
def fields (op : BitVec 8) (rd rs1 rs2 : BitVec 4) (imm : BitVec 12) : Word := op ++ rd ++ rs1 ++ rs2 ++ imm

theorem test_decode_nop : decode (fields 0b00000000 0 0 0 0) = .ok (.nop) := by decide
theorem test_decode_cfg : decode (fields 0b00000001 0 0 0 0b000000000010) = .ok (.cfg 2) := by decide
theorem test_decode_tag : decode (fields 0b00000010 0b0111 0 0 0b000000000101) = .ok (.tag 7 .f) := by decide
theorem test_decode_mov : decode (fields 0b00000011 0b0101 0b0010 0 0) = .ok (.mov 5 2) := by decide
theorem test_decode_ntt : decode (fields 0b00010000 0b0010 0b0000 0 0) = .ok (.ntt 2 0) := by decide
theorem test_decode_intt : decode (fields 0b00010001 0b0110 0b0111 0 0) = .ok (.intt 6 7) := by decide
theorem test_decode_addq : decode (fields 0b00010010 0b0001 0b0010 0b0100 0) = .ok (.addq 1 2 4) := by decide
theorem test_decode_subq : decode (fields 0b00010011 0b0101 0b0000 0b0100 0) = .ok (.subq 5 0 4) := by decide
theorem test_decode_negq : decode (fields 0b00010100 0b0011 0b0110 0 0) = .ok (.negq 3 6) := by decide
theorem test_decode_muln : decode (fields 0b00010101 0b0010 0b0010 0b0011 0) = .ok (.muln 2 2 3) := by decide
theorem test_decode_divn : decode (fields 0b00010110 0b0111 0b0110 0b0101 0) = .ok (.divn 7 6 5) := by decide
theorem test_decode_mulq : decode (fields 0b00010111 0b0111 0b0111 0b0111 0) = .ok (.mulq 7 7 7) := by decide
theorem test_decode_divq : decode (fields 0b00011000 0b0011 0b0000 0b0001 0) = .ok (.divq 3 0 1) := by decide
theorem test_decode_reduce : decode (fields 0b00011001 0b0111 0b0111 0 0) = .ok (.reduce 7 7) := by decide
theorem test_decode_center : decode (fields 0b00011010 0b0110 0b0101 0 0) = .ok (.center 6 5) := by decide
theorem test_decode_fft : decode (fields 0b00100000 0b0001 0b0000 0 0) = .ok (.fft 1 0) := by decide
theorem test_decode_ifft : decode (fields 0b00100001 0b0001 0b0110 0 0) = .ok (.ifft 1 6) := by decide
theorem test_decode_addf : decode (fields 0b00100010 0b0011 0b0010 0b0000 0) = .ok (.addf 3 2 0) := by decide
theorem test_decode_subf : decode (fields 0b00100011 0b0101 0b0100 0b0100 0) = .ok (.subf 5 4 4) := by decide
theorem test_decode_negf : decode (fields 0b00100100 0b0100 0b0011 0 0) = .ok (.negf 4 3) := by decide
theorem test_decode_mulf : decode (fields 0b00100101 0b0010 0b0000 0b0001 0) = .ok (.mulf 2 0 1) := by decide
theorem test_decode_round : decode (fields 0b00100110 0b0111 0b0110 0 0) = .ok (.round 7 6) := by decide
theorem test_decode_samplez : decode (fields 0b00110000 0 0 0 0) = .ok (.samplez) := by decide
theorem test_decode_compress : decode (fields 0b01000000 0 0b0011 0 0b000000001000) = .ok (.compress 3 8) := by decide
theorem test_decode_decompress : decode (fields 0b01000001 0b0100 0 0 0b000000001000) = .ok (.decompress 4 8) := by decide

/-- T3.1: the illegal words. -/
theorem test_decode_illegal : ([0x00000001#32, 0x00100000#32, 0x01100002#32, 0x02000000#32, 0x02000006#32,
    0x0200000A#32, 0x02800002#32, 0x02010002#32, 0x03520001#32, 0x03581000#32, 0x04000000#32, 0x0F000000#32,
    0x10900000#32, 0x10280000#32, 0x10201000#32, 0x10200001#32, 0x15228000#32, 0x15223001#32, 0x1B000000#32,
    0x27000000#32, 0x30000001#32, 0x31000000#32, 0x40130008#32, 0x40080008#32, 0x41410008#32, 0x41C00008#32,
    0x42000000#32, 0xFFFFFFFF#32].all fun c => (decode c).toOption = none) = true := by decide +kernel

/-- T3.1, T3.3: legal words with operands at the ends of their ranges. -/
theorem test_decode_ends : decode 0x01000FFF#32 = .ok (.cfg 4095) ∧ decode 0x41700FFF#32 = .ok (.decompress 7 4095) ∧
    decode 0x40000000#32 = .ok (.compress 0 0) ∧ decode 0x17777000#32 = .ok (.mulq 7 7 7) ∧
    decode 0x02300004#32 = .ok (.tag 3 .r) := by decide

/-- R81: the texts of its table. -/
theorem test_assembly : assembly .samplez = "SAMPLEZ" ∧ assembly (.cfg 2) = "CFG 2" ∧
    assembly (.decompress 4 8) = "DECOMPRESS P4, 8" ∧ assembly (.tag 1 .q) = "TAG P1, Q" ∧
    assembly (.compress 3 8) = "COMPRESS P3, 8" ∧ assembly (.ntt 2 0) = "NTT P2, P0" ∧
    assembly (.muln 2 2 3) = "MULN P2, P2, P3" := by decide +kernel

/-! The bus and reset. -/

/-- T8.3: the first command after reset is run by the step, and faults because `LOGN = 0`. -/
theorem test_step_runs_command : let s := after (step (State.reset.withFetchWord 32 0x10100000))
    s.fault = some .invalidParam ∧ s.fcmd = 0x10100000#32 ∧ s.statusWord = 2#32 ∧ s.now = 1 := by decide +kernel

/-- T8.6: a lane write sets the tag and reads back. -/
theorem test_lane_write : let s := after (hostWrite Config.prau 0x24010 5 (ready 2 []))
    s.tagsWord = 0x60#32 ∧ s.readOffset 0x24010 = 5#32 := by decide +kernel

/-- T8.18: the `BB` window packs bytes little-endian. -/
theorem test_bb_write : let s := after (hostWrite Config.prau 0x01000 0x44332211 State.reset)
    s.bytesAt 0x1000 4 = [0x11, 0x22, 0x33, 0x44] ∧ s.readOffset 0x01000 = 0x44332211#32 ∧ s.blen = 0 := by decide +kernel

/-- T8.16, T8.19: `BLEN` keeps 12 bits; the halves of `MU`. -/
theorem test_register_writes : (after (hostWrite Config.prau 0x00014 0xFFFFF123 State.reset)).readOffset 0x00014 = 0x123#32 ∧
    (after (hostWrite Config.prau 0x00028 0 (after (hostWrite Config.prau 0x0002C 0x40040000 State.reset)))).mu = 0x4004000000000000#64 := by
  decide +kernel

/-- T8.20: a faulted machine ignores writes. -/
theorem test_faulted_ignores : ([(0x00014, 7), (0x20000, 99), (0x00000, 0), (0x0000C, 0)].all fun m =>
    nextOf (hostWrite Config.prau m.1 m.2 faulted) = some faulted) = true := by decide +kernel

/-- T8.21: a write to `CTRL` with bit 0 set resets a faulted machine. -/
theorem test_ctrl_resets : nextOf (hostWrite Config.prau 0x0000C 1 faulted) = some State.reset := by decide +kernel

/-- R5, R50: offsets are counted from `BASE`; one byte below it and 256 KiB above it is not the PRAU. -/
theorem test_base : let cfg : Configuration := { Config.prau with base := 0x80000000 }
    hostOpOf cfg (.write 0x80000000 0x01000002) = some (.write cmdOffset 0x01000002) ∧
    hostOpOf cfg (.read 0x8003FFFC) = some (.read 0x3FFFC) ∧ hostOpOf cfg (.read 0x80040000) = none ∧
    hostOpOf cfg (.read 0x7FFFFFFF) = none := by decide +kernel

/-- R40: the step of another configuration; with `Q = 18433` the sum of T4.19, lane 0, is not reduced. -/
theorem test_other_configuration : let cfg := { Config.prau with params := { Config.hw with q := 18433, psi := 19 } }
    (nextOf (stepIn cfg ((pair 1 .q [12288, 6144] [1, 6145]).withFetchWord 32 0x12201000))).map (fun s => s.qs 2) =
      some [12289, 12289] := by decide +kernel

/-- R58: the bus has no misaligned access. -/
theorem test_misaligned_refused : perform Config.prau (.read 0x00005) State.reset = .refused .misalignedAccess := rfl

/-- R241: `rst` ends a running draw, whose read and write moves wait. -/
theorem test_reset_abandons :
    nextOf (step { leafOperands with leaf := some ⟨1, [0x0A]⟩, inputs := [.rst], rngPos := 3 }) =
    some { State.reset with rngPos := 3, now := 1 } := by decide +kernel

/-! One command each. -/

/-- P4 step 7: `NOP` wipes a result code. -/
theorem test_nop : nextOf (exec .nop { State.reset with res := .malformed }) = some State.reset := by decide +kernel

/-- T8.4, T8.15: `CFG 9` sets `LOGN` and empties the tags. -/
theorem test_cfg : let s := after (exec (.cfg 9) (ready 2 [.q, .z])); s.logn = 9#4 ∧ s.tagsWord = 0 := by decide +kernel

/-- T8.5: `CFG 11` is a legal word and `INVALID_PARAM`. -/
theorem test_cfg_invalid : nextOf (exec (.cfg 11) State.reset) = some (State.reset.faultEntry .invalidParam 0x0100000B#32) := by
  decide +kernel

/-- T8.8, T8.9 with two lanes: 12289 is no residue but an integer. -/
theorem test_tag : let s := load (ready 1 []) 0 .raw ([3, 12289].map qLane)
    (after (exec (.tag 0 .q) s)).fault = some .range ∧ (after (exec (.tag 0 .z) s)).tags[0] = .z := by decide +kernel

/-- T8.10: a second word is refused for `Z` and allowed for `R`. -/
theorem test_tag_words : let s := load (ready 1 []) 0 .raw [0x00000007_00000001#128, 2#128]
    (after (exec (.tag 0 .z) s)).fault = some .range ∧ (after (exec (.tag 0 .r) s)).tags[0] = .r := by decide +kernel

/-- T8.14 with two lanes. -/
theorem test_mov : let s := after (exec (.mov 5 0) (single 1 .q [12233, 60]))
    s.qs 5 = [12233, 60] ∧ s.tags[5] = .q := by decide +kernel

/-- T8.13: a `RAW` source. -/
theorem test_mov_raw : (after (exec (.mov 1 0) (ready 2 [.raw]))).fault = some .domain := by decide +kernel

/-- T4.1. -/
theorem test_ntt : let s := after (exec (.ntt 2 0) (single 1 .q [5, 7]))
    s.qs 2 = [1941, 10358] ∧ s.tags[2] = .n := by decide +kernel

/-- T4.3 in place, and T4.9 on lists. -/
theorem test_ntt_in_place : (after (exec (.ntt 0 0) (single 1 .q [12288, 12288]))).qs 0 = [1478, 10809] ∧
    ntt Config.hw 3 [3, 1, 4, 1, 5, 9, 2, 6] = [3102, 412, 6967, 5033, 6274, 1566, 3245, 10292] := by decide +kernel

/-- T4.10, T4.11. -/
theorem test_intt : let s := after (exec (.intt 2 0) (single 1 .n [1941, 10358]))
    s.qs 2 = [5, 7] ∧ s.tags[2] = .q ∧ intt Config.hw 2 [6996, 3287, 11554, 2517] = [12233, 12253, 2, 60] := by decide +kernel

/-- T4.19, lanes 0 and 2. -/
theorem test_addq : (after (exec (.addq 2 0 1) (pair 1 .q [12288, 6144] [1, 6145]))).qs 2 = [0, 0] := by decide +kernel

/-- T9.4, T9.5: one empty source is enough, whatever the other. -/
theorem test_addq_unwritten : (after (exec (.addq 2 0 1) (ready 2 [.r, .e]))).fault = some .unwritten ∧
    (after (exec (.addq 2 0 1) (ready 2 [.e, .r]))).fault = some .unwritten := by decide +kernel

/-- T4.20, lanes 0 and 3. -/
theorem test_subq : (after (exec (.subq 2 0 1) (pair 1 .n [0, 1] [1, 12288]))).qs 2 = [12288, 2] := by decide +kernel

/-- T4.21, lanes 0 and 3. -/
theorem test_negq : (after (exec (.negq 2 0) (single 1 .q [0, 12288]))).qs 2 = [0, 1] := by
  decide +kernel

/-- T4.11, lanes 0 and 1; T4.30. -/
theorem test_muln : (after (exec (.muln 0 0 1) (pair 1 .n [1444, 4229] [3409, 5737]))).qs 0 = [6996, 3287] ∧ (after (exec (.muln 2 0 1) (ready 2 [.q, .q]))).fault = some .domain := by decide +kernel

/-- T4.24, lanes 0 and 1. -/
theorem test_divn : (after (exec (.divn 2 0 1) (pair 1 .n [6996, 3287] [3409, 5737]))).qs 2 = [1444, 4229] := by decide +kernel

/-- T4.27, T4.28: the roles of dividend and divisor. -/
theorem test_divn_by_zero : let s := pair 1 .n [1, 1] [0, 2958]
    nextOf (exec (.divn 3 0 1) s) = some (s.faultEntry .divByZero 0x16301000#32) ∧
    (after (exec (.divn 3 1 0) s)).qs 3 = [0, 2958] := by decide +kernel

/-- T4.15: the product that gives the dividend back. -/
theorem test_mulq : (after (exec (.mulq 2 0 1) (pair 1 .q [6392, 7865] [3, 4]))).qs 2 = [5, 7] := by
  decide +kernel

/-- T4.12, and T4.16: multiplying by `x` rotates and negates. -/
theorem test_mulq_lists : mulRing Config.hw 2 [1, 2, 3, 4] [5, 6, 7, 8] = [12233, 12253, 2, 60] ∧
    mulRing Config.hw 2 [1, 2, 3, 4] [0, 1, 0, 0] = [12285, 1, 2, 3] := by decide +kernel

/-- T4.15. -/
theorem test_divq : (after (exec (.divq 2 0 1) (pair 1 .q [5, 7] [3, 4]))).qs 2 = [6392, 7865] := by decide +kernel

/-- T4.25. -/
theorem test_divq_by_zero : (after (exec (.divq 3 0 1) (pair 1 .q [5, 7] [1479, 1]))).fault = some .divByZero := by
  decide +kernel

/-- T4.22, lanes 0 and 5. -/
theorem test_reduce : (after (exec (.reduce 2 0) (ints 1 [-1, -2147483648]))).qs 2 = [12288, 6813] := by decide +kernel

/-- T4.23, lanes 2 and 3, with the lane words of the `-6144`. -/
theorem test_center : let s := after (exec (.center 2 0) (single 1 .q [6144, 6145]))
    s.zs 2 = [6144, -6144] ∧ s.lane 2 1 = 0xFFFFE800#128 := by decide +kernel

/-- T5.4: the tag of the result; its patterns are open. -/
theorem test_fft : (after (exec (.fft 1 0) (ints 1 [2, -2]))).tags[1] = .f := by decide +kernel

/-- R132, R137: what `FFT` reads, `1.0`, `-5.0` and a residue. -/
theorem test_fft_input : fftInput Config.num .z (zLane 1) = 0x3FF0000000000000#64 ∧ fftInput Config.num .z (zLane (-5)) = 0xC014000000000000#64 ∧
    fftInput Config.num .q (qLane 12288) = 0x40C8000000000000#64 := by decide +kernel

/-- T5.4, T5.5: the tag of the result, and a source that is not `F`. -/
theorem test_ifft : (after (exec (.ifft 2 0) (ready 1 [.f]))).tags[2] = .r ∧
    (after (exec (.ifft 2 0) (ready 1 [.r]))).fault = some .domain := by decide +kernel

/-- T5.2: `ADDF` of reals, with `-0.5 + 0.5 = +0.0`. -/
theorem test_addf : (after (exec (.addf 2 0 1) (load (reals 1 [0x3FF8000000000000, 0xBFE0000000000000]) 1 .r
    ([0x3FE0000000000000, 0x3FE0000000000000].map rLane)))).rs 2 = [0x4000000000000000, 0] := by decide +kernel

/-- T5.2: `SUBF` of reals; the minuend is `rs1`. -/
theorem test_subf : (after (exec (.subf 2 0 1) (load (reals 1 [0x3FF8000000000000, 0xBFE0000000000000]) 1 .r
    ([0x3FE0000000000000, 0x3FE0000000000000].map rLane)))).rs 2 = [0x3FF0000000000000, 0xBFF0000000000000] := by
  decide +kernel

/-- T5.2: `NEGF` of reals leaves words 2 and 3 zero. -/
theorem test_negf : let s := after (exec (.negf 2 0) (reals 1 [0x3FF0000000000000, 0x8000000000000000]))
    s.lane 2 0 = 0xBFF0000000000000#128 ∧ s.lane 2 1 = 0 := by decide +kernel

/-- T5.2: `[1 + 2i, 1 - 2i] · [3 + 4i, 3 - 4i] = [-5 + 10i, -5 - 10i]`. -/
theorem test_mulf : (after (exec (.mulf 2 0 1) (complexes
    [(0x3FF0000000000000, 0x4000000000000000), (0x3FF0000000000000, 0xC000000000000000)]
    [(0x4008000000000000, 0x4010000000000000), (0x4008000000000000, 0xC010000000000000)]))).fs 2 =
    [(0xC014000000000000, 0x4024000000000000), (0xC014000000000000, 0xC024000000000000)] := by decide +kernel

/-- T5.3: ties go to even, at both ends of the range too. -/
theorem test_round : (after (exec (.round 2 0) (reals 1 [0x4004000000000000, 0xC1E0000000100000]))).zs 2 = [2, -2147483648] ∧
    ([0x3FE0000000000000, 0x3FF8000000000000, 0xBFF8000000000000, 0x3FDFFFFFFFFFFFFF, 0x3FE0000000000001,
      0x41DFFFFFFFDFFFFF, 0x7E37E43C8800759C].map (roundsToInt32 Config.num)) = [true, true, true, true, true, true, false] ∧
    ([0x3FE0000000000000, 0x3FF8000000000000, 0xBFF8000000000000, 0x3FDFFFFFFFFFFFFF, 0x3FE0000000000001,
      0x41DFFFFFFFDFFFFF].map fround) = [some 0, some 2, some (-2), some 0, some 1, some 2147483647] := by decide +kernel

/-- T5.3: 2147483647.5 is out of range, a NaN too. -/
theorem test_round_range : (after (exec (.round 2 0) (reals 1 [0, 0x41DFFFFFFFE00000]))).fault = some .range ∧
    (after (exec (.round 2 0) (reals 1 [0x7FF8000000000000, 0]))).fault = some .range := by decide +kernel

/-- T6.1, T6.2, T6.3. -/
theorem test_samplez_invalid :
    nextOf (exec .samplez State.reset) = some (State.reset.faultEntry .invalidParam 0x30000000#32) ∧
    (after (exec .samplez { State.reset with sigleaf := 0x8000000000000000 })).fault = some .invalidParam ∧
    (after (exec .samplez { leafOperands with mu := 0x7FF8000000000000 })).fault = some .invalidParam := by decide +kernel

/-- T6.8, T6.9: what a finished loop commits. -/
theorem test_samplez_settles :
    ({ leafOperands with rejcnt := 0xFFFFFFFF#32 } : State).leafSettle (.accepted 5 1 5) =
      { leafOperands with sz := 5, rejcnt := 0, rngPos := 5 } ∧
    leafOperands.leafSettle (.accepted 2147483648 0 2) =
      { leafOperands with fault := some .range, fcmd := 0x30000000#32, rngPos := 2 } := by decide +kernel

/-- The toy attempt of Part 6 around the centre `c`, which is not the hardware's. -/
def toy (c : Int) (b : Byte) : LeafStep :=
  .more fun b' => if b'.toNat < 64 then .accept (c + (b.toNat % 16 : Nat) - 8) else .reject

/-- The stream of T6.5. -/
def toyStream (pos : Nat) : Byte := [0x13, 0xF0, 0x0A, 0x20].getD pos 0x55

/-- T6.5: one rejection, then 4, with four bytes; with three bytes the draw has not ended. -/
theorem test_leaf_loop : leafLoop (toy 2) toyStream 9 (toy 2) [] 0 0 = .accepted 4 1 4 ∧
    leafLoop (toy 2) toyStream 3 (toy 2) [] 0 0 = .pending 1 [0x0A] 3 := by decide +kernel

/-- T6.4: the deviation is the larger pattern. -/
theorem test_leaf_sigma : leafSigma 0xBFF0000000000000 0x3FF4000000000000 = 0x3FF4000000000000#64 ∧
    leafSigma 0x3FF8000000000000 0x3FF4000000000000 = 0x3FF8000000000000#64 := by decide +kernel

/-- T7.2: `COMPRESS` of `[128, -128]` to 3 bytes, and `[3, -2, 0, 5]` to 8. -/
theorem test_compress : let s := after (exec (.compress 0 3) (ints 1 [128, -128]))
    s.bytesAt 0x1000 3 = [0x00, 0xA0, 0x20] ∧ s.blen = 3 ∧
    compress Config.hw [3, -2, 0, 5] 8 = some [0x03, 0x41, 0, 0, 0xA0, 0, 0, 0] := by decide +kernel

/-- T7.2: two bytes are too few; only the result code changes. -/
theorem test_compress_overflow : nextOf (exec (.compress 0 2) (ints 1 [129, 3])) =
    some { ints 1 [129, 3] with res := .overflow } := by decide +kernel

/-- T7.3, P2 step 5: the same bytes back; a length beyond `BLEN`. -/
theorem test_decompress : let s := ((ready 1 []).store 0x1000 [0x00, 0xA0, 0x20]).setBlen 3
    (after (exec (.decompress 2 3) s)).zs 2 = [128, -128] ∧
    decompress Config.hw [0x03, 0x41, 0, 0, 0xA0] 4 = some [3, -2, 0, 5] ∧
    (after (exec (.decompress 2 4) s)).fault = some .invalidParam := by decide +kernel

/-- T7.3: a padding bit, a minus zero, a truncated run. -/
theorem test_decompress_malformed : decompress Config.hw [0x01, 0x80, 0xC1] 2 = none ∧
    decompress Config.hw [0x80, 0, 0] 2 = none ∧ decompress Config.hw [0, 0, 0x7F] 2 = none := by decide +kernel

/-- T7.5: the other polarity of the unary field. -/
theorem test_other_run_bit : compress { Config.hw with runBit := false } [3, -2, 0, 5] 5 =
    some [0x03, 0xC1, 0x40, 0x20, 0xB0] := by decide +kernel

/-- R131: a sum that overflows, a sum of subnormals, a tie. -/
theorem test_fadd : fadd 0 0x7FEFFFFFFFFFFFFF 0x7C90000000000000 = 0x7FF0000000000000#64 ∧
    fadd 0 1 1 = 2#64 ∧ fadd 0 0x4340000000000000 0x3FF0000000000000 = 0x4340000000000000#64 := by decide +kernel

/-! Witnesses: states and operands that meet the hypotheses of a statement, clause by clause. -/

/-- States that meet the three cases of `ConfigAndTagFaults`. -/
abbrev Checks (sources : List Reg) (admitted : List (List Tag)) (unconfigured empty mixed : State) : Prop :=
  (unconfigured.fault = none ∧ unconfigured.logn = 0#4) ∧
  (empty.fault = none ∧ empty.logn ≠ 0#4 ∧ ∃ r ∈ sources, empty.tags[r] = .e) ∧
  (mixed.fault = none ∧ mixed.logn ≠ 0#4 ∧ (∀ r ∈ sources, mixed.tags[r] ≠ .e) ∧
    (sources.map fun r => mixed.tags[r]) ∉ admitted)

/-- A state that passes them, with an admitted combination of source tags. -/
abbrev Admits (sources : List Reg) (tags : List Tag) (s : State) : Prop :=
  s.fault = none ∧ s.logn ≠ 0#4 ∧ (sources.map fun r => s.tags[r]) = tags

theorem witness_DecodeUndoesEncode : WellFormed (.tag 7 .f) = true ∧ WellFormed (.decompress 7 4095) = true := by decide

theorem witness_EncodeUndoesDecode : decode 0xFFFFFFFF#32 ≠ .ok .nop ∧ decode 0x17777000#32 = .ok (.mulq 7 7 7) := by decide

theorem witness_CommandExactlyWhenMaskMatches : (0x02, 0xFF8FFFF8#32) ∈ opcodeRows ∧ decode 0x02700005#32 = .ok (.tag 7 .f) := by
  decide

theorem witness_StepRunsDecodedCommand : (let s := State.reset.withFetchWord 32 0x01000002
    s.leaf = none ∧ s.inputs = [.write cmdOffset 0x01000002#32] ∧ decode 0x01000002#32 = .ok (.cfg 2)) ∧
    (let s : State := { State.reset with inputs := [.write 0x3FFFC 9] }
     s.leaf = none ∧ s.inputs = [.write 0x3FFFC 9] ∧ (0x3FFFC : Offset).toNat % 4 = 0) ∧
    (State.reset.leaf = none ∧ State.reset.inputs = []) ∧
    ({ State.reset with inputs := [.idle] } : State).inputs = [.idle] := by decide

theorem witness_IllegalWordFaults : let s := State.reset.withFetchWord 32 0xFFFFFFFF
    s.leaf = none ∧ s.fault = none ∧ s.inputs = [.write cmdOffset 0xFFFFFFFF#32] ∧
    (∀ row ∈ opcodeRows, ¬ RowMatches row 0xFFFFFFFF#32) ∧ (∀ row ∈ opcodeRows, ¬ RowMatches row 0x02000006#32) := by
  simp only [RowMatches]; decide

theorem witness_FaultedMachineIgnoresWrites : faulted.leaf = none ∧ faulted.fault = some .divByZero ∧
    (0x3FFFC : Offset).toNat % 4 = 0 ∧ (0x3FFFC : Offset) ≠ ctrlOffset ∧ cmdOffset ≠ ctrlOffset ∧
    cmdOffset.toNat % 4 = 0 := by decide

theorem witness_FaultsArePrecise : State.reset.leaf = none ∧ State.reset.fault = none ∧ faulted.leaf = none ∧
    faulted.fault ≠ none := by decide

theorem witness_LaneWindowHoldsWords : (0x3FFFC : Offset).toNat = 0x20000 + (7 : Reg).val * 0x4000 + 1023 * 0x10 + 3 * 4 ∧
    (0x20000 : Offset).toNat = 0x20000 + (0 : Reg).val * 0x4000 + 0 * 0x10 + 0 * 4 ∧ State.reset.fault = none := by decide

theorem witness_ByteWindowPacksFourBytes : (0x1FFC : Offset).toNat = 0x1000 + 4 * 1023 ∧
    (0x1000 : Offset).toNat = 0x1000 + 4 * 0 ∧ State.reset.fault = none := by decide

theorem witness_RegisterWritesTakeTheValue : State.reset.fault = none := by decide

theorem witness_ReservedOffsetsAreInert : (0x24 : Offset).toNat = 0x24 ∧
    (∀ a ∈ [0x40, 0xFFC], 0x40 ≤ a ∧ a < 0x1000) ∧ (∀ a ∈ [0x2000, 0x1FFFC], 0x2000 ≤ a ∧ a < 0x20000) ∧
    cmdOffset.toNat = 0x00 ∧ ctrlOffset.toNat = 0x0C ∧
    (∀ a ∈ [0x04, 0x08, 0x10, 0x18, 0x20], (BitVec.ofNat 18 a).toNat = a) := by decide

theorem witness_ReadsReturnRegisters : let s : State := { State.reset with inputs := [.read 0x00004] }
    s.leaf = none ∧ (0x00004 : Offset).toNat % 4 = 0 ∧ s.inputs = [.read 0x00004] ∧
    (∀ a ∈ [0x04, 0x08, 0x10, 0x14, 0x18, 0x1C, 0x20, 0x28, 0x2C, 0x30, 0x34, 0x38, 0x3C],
      (BitVec.ofNat 18 a).toNat = a ∧ a % 4 = 0) := by decide

theorem witness_CtrlBitZeroResets : let s : State := { faulted with inputs := [.write ctrlOffset 1#32] }
    s.leaf = none ∧ s.inputs = [.write ctrlOffset 1#32] ∧ (1#32).getLsbD 0 = true ∧
    (0xFFFFFFFE#32).getLsbD 0 = false := by decide

theorem witness_ResetClearsState :
    ({ leafOperands with leaf := some ⟨0, []⟩, inputs := [.rst] } : State).inputs = [.rst] := by decide

theorem witness_RunningCommandBlocksBus :
    let s : State := { leafOperands with leaf := some ⟨1, [0x0A]⟩, inputs := [.read 0x00004] }
    s.leaf = some ⟨1, [0x0A]⟩ ∧ s.inputs.head? ≠ some .rst ∧ s.inputs.head? ≠ some .idle := by decide

/-- Both ends of the loop, for T6.5's attempt going on after three bytes: one byte more accepts, none more does not. -/
theorem witness_RunningCommandBlocksBus_loop :
    leafLoop (toy 2) toyStream 1 (awaiting (toy 2) [0x0A]) [0x0A] 1 3 = .accepted 4 1 4 ∧
    leafLoop (toy 2) toyStream 0 (awaiting (toy 2) [0x0A]) [0x0A] 1 3 = .pending 1 [0x0A] 3 := by decide +kernel

theorem witness_TypedViewsReadBack : (-2 ^ 31 ≤ (-2147483648 : Int) ∧ (-2147483648 : Int) ≤ 2 ^ 31 - 1) ∧
    (-2 ^ 31 ≤ (2147483647 : Int) ∧ (2147483647 : Int) ≤ 2 ^ 31 - 1) ∧ 4294967295 < 2 ^ 32 := by decide

theorem witness_NopSetsResultOk : State.reset.fault = none ∧ faulted.fault ≠ none ∧ opField 0x00800000#32 = 0 ∧
    (0x00800000#32 : Word) ≠ 0 := by decide

theorem witness_CfgSelectsDimension : State.reset.fault = none ∧ (∀ k ∈ [1, 10], 1 ≤ (BitVec.ofNat 12 k).toNat ∧
    (BitVec.ofNat 12 k).toNat ≤ 10) ∧ (∀ k ∈ [0, 11, 4095], (BitVec.ofNat 12 k).toNat < 1 ∨ 10 < (BitVec.ofNat 12 k).toNat) := by
  decide

theorem witness_TagTypesHostData_checks : Tag.typed .q = true ∧
    Checks [0] [[.raw]] (ready 0 []) (ready 1 []) (ready 1 [.q]) ∧
    Admits [0] [.raw] (load (ready 1 []) 0 .raw ([0, 12288].map qLane)) := by decide

theorem witness_TagTypesHostData : let s := load (ready 1 []) 0 .raw ([0, 12288].map qLane)
    (∀ j < s.n, MeetsTag .q (s.lane 0 j)) ∧
    (let s := load (ready 1 []) 0 .raw ([0, 12289].map qLane); ∃ j < s.n, ¬ MeetsTag .q (s.lane 0 j)) := by
  simp only [MeetsTag]; decide +kernel

theorem witness_MovCopiesRegister : Checks [0] [[.z], [.q], [.n], [.r], [.f]] (ready 0 []) (ready 1 []) (ready 10 [.raw]) ∧
    Admits [0] [.z] (ready 10 [.z]) ∧
    Admits [0] [.f] (ready 1 [.f]) := by decide

theorem witness_NttEvaluatesAtRoots : Checks [0] [[.q]] (ready 0 []) (ready 1 []) (ready 10 [.n]) ∧
    Admits [0] [.q] (ready 10 [.q]) := by decide

theorem witness_InttInterpolates : Checks [0] [[.n]] (ready 0 []) (ready 1 []) (ready 10 [.q]) ∧
    Admits [0] [.n] (ready 10 [.n]) ∧
    6145 * (ready 1 [.n]).n % Config.hw.q = 1 ∧ 1479 * rootOf Config.hw (ready 1 [.n]).n % Config.hw.q = 1 := by decide +kernel

theorem witness_AddqAddsLanes : Checks [0, 1] [[.q, .q], [.n, .n]] (ready 0 []) (ready 1 [.q]) (ready 10 [.q, .n]) ∧
    Admits [0, 1] [.q, .q] (ready 10 [.q, .q]) ∧
    Admits [0, 1] [.n, .n] (ready 1 [.n, .n]) := by decide

theorem witness_SubqSubtractsLanes : Checks [0, 1] [[.q, .q], [.n, .n]] (ready 0 []) (ready 1 [.q]) (ready 10 [.n, .q]) ∧
    Admits [0, 1] [.q, .q] (ready 10 [.q, .q]) ∧
    Admits [0, 1] [.n, .n] (ready 1 [.n, .n]) := by decide

theorem witness_NegqNegatesLanes_checks : Checks [0] [[.q], [.n]] (ready 0 []) (ready 1 []) (ready 10 [.z]) ∧
    Admits [0] [.q] (ready 10 [.q]) ∧
    Admits [0] [.n] (ready 1 [.n]) := by decide

theorem witness_NegqNegatesLanes : let s := single 1 .q [0, 12288]
    Admits [0] [.q] s ∧ ∀ j < s.n, qOf (s.lane 0 j) < Config.hw.q := by decide +kernel

theorem witness_MulnMultipliesLanes : Checks [0, 1] [[.n, .n]] (ready 0 []) (ready 1 [.n]) (ready 10 [.q, .q]) ∧
    Admits [0, 1] [.n, .n] (ready 10 [.n, .n]) := by decide

theorem witness_DivnDividesLanes_checks : Checks [0, 1] [[.n, .n]] (ready 0 []) (ready 1 [.n]) (ready 10 [.n, .q]) ∧
    Admits [0, 1] [.n, .n] (ready 10 [.n, .n]) := by decide

theorem witness_DivnDividesLanes :
    (let s := pair 1 .n [1, 1] [2958, 0]; Admits [0, 1] [.n, .n] s ∧ ∃ k < s.n, qOf (s.lane 1 k) = 0) ∧
    (let s := pair 1 .n [0, 1] [1, 12288]
     Admits [0, 1] [.n, .n] s ∧ ∀ k < s.n, 0 < qOf (s.lane 1 k) ∧ qOf (s.lane 1 k) < Config.hw.q) := by decide +kernel

theorem witness_MulqIsRingProduct : Checks [0, 1] [[.q, .q]] (ready 0 []) (ready 1 [.q]) (ready 10 [.n, .n]) ∧
    Admits [0, 1] [.q, .q] (ready 10 [.q, .q]) ∧
    (ready 10 [.q, .q]).logn.toNat ≤ 10 := by decide

theorem witness_DivqIsRingQuotient_checks : Checks [0, 1] [[.q, .q]] (ready 0 []) (ready 1 [.q]) (ready 10 [.q, .z]) ∧
    Admits [0, 1] [.q, .q] (ready 10 [.q, .q]) ∧
    (ready 10 [.q, .q]).logn.toNat ≤ 10 := by decide

/-- T4.25, T4.15. -/
theorem witness_DivqIsRingQuotient :
    (let s := pair 1 .q [5, 7] [1479, 1]
     Admits [0, 1] [.q, .q] s ∧ ∃ k < s.n, evaluation Config.hw s.n (fun j => qOf (s.lane 1 j)) k = 0) ∧
    (let s := pair 1 .q [5, 7] [3, 4]
     Admits [0, 1] [.q, .q] s ∧ ∀ k < s.n, evaluation Config.hw s.n (fun j => qOf (s.lane 1 j)) k ≠ 0) := by decide +kernel

theorem witness_ReduceTakesRemainders : Checks [0] [[.z]] (ready 0 []) (ready 1 []) (ready 10 [.r]) ∧
    Admits [0] [.z] (ready 10 [.z]) := by decide

theorem witness_CenterTakesCentredValues_checks : Checks [0] [[.q]] (ready 0 []) (ready 1 []) (ready 10 [.n]) ∧
    Admits [0] [.q] (ready 10 [.q]) := by decide

theorem witness_CenterTakesCentredValues : let s := single 1 .q [6144, 12288]
    Admits [0] [.q] s ∧ ∀ j < s.n, qOf (s.lane 0 j) < Config.hw.q := by decide +kernel

theorem witness_FftTransformsLanes : Checks [0] [[.z], [.q], [.r]] (ready 0 []) (ready 1 []) (ready 10 [.n]) ∧
    Admits [0] [.z] (ready 10 [.z]) ∧
    Admits [0] [.q] (ready 1 [.q]) ∧
    Admits [0] [.r] (ready 1 [.r]) := by decide

theorem witness_IfftTransformsLanes : Checks [0] [[.f]] (ready 0 []) (ready 1 []) (ready 10 [.r]) ∧
    Admits [0] [.f] (ready 10 [.f]) := by decide

theorem witness_AddfAddsLanes : Checks [0, 1] [[.r, .r], [.f, .f]] (ready 0 []) (ready 1 [.r]) (ready 10 [.r, .f]) ∧
    Admits [0, 1] [.r, .r] (ready 10 [.r, .r]) ∧
    Admits [0, 1] [.f, .f] (ready 1 [.f, .f]) := by decide

theorem witness_SubfSubtractsLanes : Checks [0, 1] [[.r, .r], [.f, .f]] (ready 0 []) (ready 1 [.r]) (ready 10 [.f, .r]) ∧
    Admits [0, 1] [.r, .r] (ready 10 [.r, .r]) ∧
    Admits [0, 1] [.f, .f] (ready 1 [.f, .f]) := by decide

theorem witness_NegfFlipsSigns : Checks [0] [[.r], [.f]] (ready 0 []) (ready 1 []) (ready 10 [.q]) ∧
    Admits [0] [.r] (ready 10 [.r]) ∧
    Admits [0] [.f] (ready 1 [.f]) := by decide

theorem witness_MulfMultipliesLanes : Checks [0, 1] [[.f, .f]] (ready 0 []) (ready 1 [.f]) (ready 10 [.r, .r]) ∧
    Admits [0, 1] [.f, .f] (ready 10 [.f, .f]) := by decide

theorem witness_RoundTakesNearestIntegers_checks : Checks [0] [[.r]] (ready 0 []) (ready 1 []) (ready 10 [.f]) ∧
    Admits [0] [.r] (ready 10 [.r]) := by decide

/-- `2.5` rounds to 2, and 2147483647.4999998 to the largest integer. -/
theorem witness_RoundTakesNearestIntegers_fits : let s := reals 1 [0x4004000000000000, 0x41DFFFFFFFDFFFFF]
    Admits [0] [.r] s ∧
    (NearestInt (rOf (s.lane 0 0)) 2 ∧ NearestInt (rOf (s.lane 0 1)) 2147483647) := by
  simp only [NearestInt]; decide +kernel

theorem witness_RoundTakesNearestIntegers :
    (let s := reals 1 [0x4004000000000000, 0x41DFFFFFFFDFFFFF]
     ∀ j < s.n, ∃ z, NearestInt (rOf (s.lane 0 j)) z ∧ -2 ^ 31 ≤ z ∧ z ≤ 2 ^ 31 - 1) ∧
    (let s := reals 1 [0, 0x7FF0000000000000]
     Admits [0] [.r] s ∧ ∃ j < s.n, ¬ ∃ z, NearestInt (rOf (s.lane 0 j)) z ∧ -2 ^ 31 ≤ z ∧ z ≤ 2 ^ 31 - 1) := by
  refine ⟨fun j hj => ?_, by decide +kernel, 1, by decide, fun ⟨z, h, _⟩ => ?_⟩
  · have hj : j = 0 ∨ j = 1 := by
      have : j < 2 := hj
      omega
    rcases hj with rfl | rfl
    · exact ⟨2, witness_RoundTakesNearestIntegers_fits.2.1, by decide, by decide⟩
    · exact ⟨2147483647, witness_RoundTakesNearestIntegers_fits.2.2, by decide, by decide⟩
  · exact absurd h.1 (by decide +kernel)

/-- T6.5, and T6.1 to T6.3. -/
theorem witness_SamplezDrawsOneInteger : let s := leafOperands
    s.fault = none ∧ s.leaf = none ∧
    (0x3FF8000000000000#64 = if scaled s.sigmin ≤ scaled s.sigleaf then s.sigleaf else s.sigmin) ∧
    isFinite s.mu = true ∧ isFinite s.sigleaf = true ∧ isFinite s.sigmin = true ∧ 0 < scaled 0x3FF8000000000000#64 ∧
    isFinite 0x7FF8000000000000#64 = false ∧ scaled 0x8000000000000000#64 ≤ 0 ∧
    (0#64 = if scaled State.reset.sigmin ≤ scaled State.reset.sigleaf then State.reset.sigleaf else State.reset.sigmin) := by
  decide +kernel

/-- T6.5. -/
theorem witness_LeafLoopFollowsAttempts : Draws toyStream (toy 2) 0 4 1 4 ∧
    leafLoop (toy 2) toyStream 3 (toy 2) [] 0 0 = .pending 1 [0x0A] 3 :=
  ⟨.again (k := 2) (.more rfl (.reject rfl)) (.accept (.more rfl (.accept rfl))), by decide +kernel⟩

theorem witness_CompressStoresBitstream_checks : Checks [0] [[.z]] (ready 0 []) (ready 1 []) (ready 10 [.q]) ∧
    Admits [0] [.z] (ints 1 [127, -127]) := by decide

/-- T7.2: 18 bits fit 3 bytes and not 2. -/
theorem witness_CompressStoresBitstream :
    let bits := (List.range (ints 1 [127, -127]).n).flatMap fun j => code Config.hw (zOf ((ints 1 [127, -127]).lane 0 j))
    8 * (2#12).toNat < bits.length ∧ bits.length ≤ 8 * (3#12).toNat ∧ bits.length = 18 := by decide +kernel

/-- T7.2, with the length at `BLEN`. -/
theorem witness_DecompressInvertsCompress : let s := ((ready 1 []).store 0x1000 [0x00, 0xA0, 0x20]).setBlen 3
    s.fault = none ∧ s.logn ≠ 0#4 ∧ (3#12).toNat ≤ s.blen.toNat ∧ s.blen.toNat < (4#12).toNat ∧
    [128, -128].length = s.n ∧
    compress Config.hw [128, -128] (3#12).toNat = some (s.bytesAt (bbAddr 0) (3#12).toNat) := by decide +kernel

/-- No polynomial has an encoding of no bytes. -/
theorem witness_DecompressInvertsCompress_malformed : let s := ready 1 []
    s.logn ≠ 0#4 ∧ (0#12).toNat ≤ s.blen.toNat ∧ ¬ ∃ p : List Int, p.length = s.n ∧
      compress Config.hw p (0#12).toNat = some (s.bytesAt (bbAddr 0) (0#12).toNat) := by
  refine ⟨by decide, by decide, ?_⟩
  rintro ⟨p, hl, h⟩
  have hl : p.length = 2 := hl
  match p, hl with
  | [a, b], _ => simp [compress, codeLen] at h

/-- A machine with a typed register and a command at hand. -/
def typedState : State := (single 1 .q [5, 12288]).withFetchWord 32 0x10100000

theorem typedState_inv : Inv typedState where
  canonical := by decide +kernel
  mapped := by
    simp only [StorageMapped]
    decide +kernel
  logn := by decide +kernel
  tags := by
    simp only [TagsHold, LanesListed, MeetsTag]
    decide +kernel
  fcmd := by decide +kernel
  running := by decide +kernel

theorem witness_StepKeepsInvariant : Inv typedState ∧ (nextOf (step typedState)).map (fun t => t.tags[1]) = some .n :=
  ⟨typedState_inv, by decide +kernel⟩

theorem faulted_inv : Inv faulted where
  canonical := by decide
  mapped := by
    simp only [StorageMapped]
    decide
  logn := by decide
  tags := by
    simp only [TagsHold, LanesListed, MeetsTag]
    decide
  fcmd := by decide
  running := by decide

theorem witness_FaultedMachineIsFrozen :
    Inv faulted ∧ faulted.fault ≠ none ∧ ¬ ResetNext faulted ∧ (nextOf (step faulted)).isSome := by
  refine ⟨faulted_inv, by decide, ?_, by decide⟩
  rintro ⟨rest, h | ⟨v, _, _, h⟩⟩
  · cases h
  · cases h

theorem witness_OnlySamplezTakesBytes : (nextOf (step typedState)).map (fun t => t.rngPos) = some 0 := by decide +kernel

theorem witness_CommandsKeepTheirFrame : (nextOf (exec (.ntt 1 0) (single 1 .q [5, 7]))).map (fun t => t.tags[1]) = some .n := by
  decide +kernel

/-- An admissible configuration that is not the hardware's. -/
def otherParams : Params := { q := 18433, psi := 19, lowBits := 15, runBit := false }

theorem otherParams_wf : otherParams.WF where
  prime := by norm_num [otherParams]
  small := by decide
  split := by decide
  root := by decide +kernel
  lowPos := by decide
  lowMax := by decide

theorem witness_RootHasOrderTwoN : otherParams.WF ∧ 1 ≤ 10 ∧ 10 ≤ 10 := ⟨otherParams_wf, by decide⟩

theorem witness_TransformsAreInverse : otherParams.WF ∧ [0, 18432].length = 2 ^ 1 ∧ ∀ v ∈ [0, 18432], v < otherParams.q :=
  ⟨otherParams_wf, by decide⟩

/-- `x` and its inverse `-x` modulo `x^2 + 1`. -/
theorem witness_TransformIsRingIsomorphism : otherParams.WF ∧ 2 = 2 ^ 1 ∧ [18432, 5].length = 2 ∧
    (∀ v ∈ [18432, 5], v < otherParams.q) ∧ [0, 1].length = 2 ∧ (∀ v ∈ [0, 1], v < otherParams.q) ∧
    [1, 0] = 1 :: List.replicate (2 - 1) 0 ∧ (∀ v ∈ [0, 18432], v < otherParams.q) ∧
    mulRing otherParams 1 [0, 1] [0, 18432] = [1, 0] := ⟨otherParams_wf, by decide +kernel⟩

theorem witness_CompressFitsOrOverflows : compress Config.hw [127, -127] 3 = some [0x7F, 0x7F, 0x80] ∧
    (127 : Int) ∈ [127, -127] ∧ compress Config.hw [2047, 0] 4 = none := by decide +kernel

theorem witness_CodecIsCanonical : compress Config.hw [1000, -1000] 4 = some [0x68, 0xFE, 0xE8, 0xFE] ∧
    decompress Config.hw [0, 0, 0x40] 2 = some [0, 128] := by decide +kernel

/-- The boundary of the range: the largest finite pattern plus half its last place, and a little less; and zeros. -/
theorem witness_SumsRoundToNearestEven :
    [0x7FEFFFFFFFFFFFFF#64, 0x7C90000000000000#64, 0x7C8FFFFFFFFFFFFF#64, 0#64, 0x8000000000000000#64].all isFinite = true ∧
    OutOfRange (scaled 0x7FEFFFFFFFFFFFFF#64 + scaled 0x7C90000000000000#64) 0 ∧
    ¬ OutOfRange (scaled 0x7FEFFFFFFFFFFFFF#64 + scaled 0x7C8FFFFFFFFFFFFF#64) 0 ∧
    OutOfRange (scaled 0xFFEFFFFFFFFFFFFF#64 - scaled 0x7C90000000000000#64) 0 ∧
    scaled 0#64 + scaled 0x8000000000000000#64 = 0 ∧ scaled 0#64 - scaled 0x8000000000000000#64 = 0 := by
  simp only [OutOfRange]; decide +kernel

theorem witness_ProductsRoundToNearestEven :
    isFinite 0x7FEFFFFFFFFFFFFF#64 = true ∧ isFinite 0x4000000000000000#64 = true ∧ isFinite 0x3FF0000000000000#64 = true ∧
    OutOfRange (scaled 0x7FEFFFFFFFFFFFFF#64 * scaled 0x4000000000000000#64) 1074 ∧
    ¬ OutOfRange (scaled 0x7FEFFFFFFFFFFFFF#64 * scaled 0x3FF0000000000000#64) 1074 := by
  simp only [OutOfRange]; decide +kernel

theorem witness_SpecialValuesFollowIeee : isNan 0x7FF8000000000000#64 = true ∧ isInf 0x7FF0000000000000#64 = true ∧
    isFinite 0x7FEFFFFFFFFFFFFF#64 = true ∧ isInf 0xFFF0000000000000#64 = true ∧
    isNan 0x7FEFFFFFFFFFFFFF#64 = false ∧ (isFinite 0#64 = true ∧ scaled 0#64 = 0) ∧
    ¬ (isFinite 1#64 = true ∧ scaled 1#64 = 0) := by decide +kernel

theorem witness_IntegersConvertExactly : |(2147483648 : Int)| ≤ 2 ^ 31 ∧ |(-2147483648 : Int)| ≤ 2 ^ 31 := by decide

theorem isZeta_two {zeta : ℂ} (h : IsZeta 2 zeta) : zeta = Complex.I := by
  rw [h, show Complex.I * Real.pi / ((2 : Nat) : ℂ) = (Real.pi / 2 : ℝ) * Complex.I by push_cast; ring, Complex.exp_mul_I,
    ← Complex.ofReal_cos, ← Complex.ofReal_sin, Real.cos_pi_div_two, Real.sin_pi_div_two]
  simp

/-- The lanes of R142's example, the transforms of `1 + 2x` and `3 + 4x`. -/
def exampleLanes (a b : ℝ) (k : Nat) : ℂ := if k = 0 then ⟨a, b⟩ else ⟨a, -b⟩

theorem exampleLanes_ideal (a b : ℝ) : IsIdealFft 2 (fun j => if j = 0 then a else b) (exampleLanes a b) := by
  intro zeta hz k hk
  rw [isZeta_two hz]
  have hk : k = 0 ∨ k = 1 := by omega
  rcases hk with rfl | rfl
  · apply Complex.ext <;> simp [exampleLanes, Finset.sum_range_succ]
  · have h3 : Complex.I ^ 3 = -Complex.I := by rw [pow_succ, Complex.I_sq]; simp
    apply Complex.ext <;> simp [exampleLanes, Finset.sum_range_succ, h3]

theorem isValue_int (x : F64) (z : Int) {r : ℝ} (h : isFinite x = true ∧ scaled x = z * 2 ^ 1074) (hr : r = z) :
    IsValue x r := ⟨h.1, by rw [h.2, hr, Int.cast_mul, Int.cast_pow, Int.cast_ofNat]⟩

theorem representable_int (x : F64) (z : Int) {r : ℝ} (h : isFinite x = true ∧ scaled x = z * 2 ^ 1074) (hr : r = z) :
    Representable r := ⟨x, isValue_int x z h hr⟩

/-- R142's example meets every hypothesis: `(1 + 2x)(3 + 4x) = -5 + 10x` modulo `x^2 + 1`. -/
theorem witness_IdealTransformsAreInverse :
    IsIdealFft 2 (fun j => if j = 0 then 1 else 2) (exampleLanes 1 2) ∧
    IsIdealFft 2 (fun j => if j = 0 then 3 else 4) (exampleLanes 3 4) ∧
    IsRealProduct 2 (fun j => if j = 0 then 1 else 2) (fun j => if j = 0 then 3 else 4) (fun j => if j = 0 then -5 else 10) ∧
    (let s := complexes [(0x3FF0000000000000, 0x4000000000000000), (0x3FF0000000000000, 0xC000000000000000)]
        [(0x4008000000000000, 0x4010000000000000), (0x4008000000000000, 0xC010000000000000)]
     s.fault = none ∧ s.logn.toNat = 1 ∧ s.tags[0] = .f ∧ s.tags[1] = .f ∧
     ∀ k < 2, IsComplexValue (fOf (s.lane 0 k)) (exampleLanes 1 2 k) ∧
       IsComplexValue (fOf (s.lane 1 k)) (exampleLanes 3 4 k)) ∧
    (∀ k < 2, ExactProduct (exampleLanes 1 2 k) (exampleLanes 3 4 k)) := by
  refine ⟨exampleLanes_ideal 1 2, exampleLanes_ideal 3 4, ?_,
    ⟨by decide, by decide, by decide, by decide, fun k hk => ?_⟩, fun k hk => ?_⟩
  · intro k hk
    have hk : k = 0 ∨ k = 1 := by omega
    rcases hk with rfl | rfl <;> norm_num [Finset.sum_range_succ]
  · have hk : k = 0 ∨ k = 1 := by omega
    rcases hk with rfl | rfl
    · refine ⟨⟨isValue_int _ 1 ?_ ?_, isValue_int _ 2 ?_ ?_⟩,
        isValue_int _ 3 ?_ ?_, isValue_int _ 4 ?_ ?_⟩ <;> first | decide +kernel | norm_num [exampleLanes]
    · refine ⟨⟨isValue_int _ 1 ?_ ?_, isValue_int _ (-2) ?_ ?_⟩,
        isValue_int _ 3 ?_ ?_, isValue_int _ (-4) ?_ ?_⟩ <;> first | decide +kernel | norm_num [exampleLanes]
  · have hk : k = 0 ∨ k = 1 := by omega
    rcases hk with rfl | rfl
    · refine ⟨representable_int 0x4008000000000000 3 ?_ ?_,
        representable_int 0x4020000000000000 8 ?_ ?_,
        representable_int 0xC014000000000000 (-5) ?_ ?_,
        representable_int 0x4010000000000000 4 ?_ ?_,
        representable_int 0x4018000000000000 6 ?_ ?_,
        representable_int 0x4024000000000000 10 ?_ ?_⟩ <;> first | decide +kernel | norm_num [exampleLanes]
    · refine ⟨representable_int 0x4008000000000000 3 ?_ ?_,
        representable_int 0x4020000000000000 8 ?_ ?_,
        representable_int 0xC014000000000000 (-5) ?_ ?_,
        representable_int 0xC010000000000000 (-4) ?_ ?_,
        representable_int 0xC018000000000000 (-6) ?_ ?_,
        representable_int 0xC024000000000000 (-10) ?_ ?_⟩ <;> first | decide +kernel | norm_num [exampleLanes]

/-- The sums and differences of the same lanes do not round either. -/
theorem witness_IdealTransformsAreInverse_sums : ∀ k < 2,
    (Representable (exampleLanes 1 2 k + exampleLanes 3 4 k).re ∧ Representable (exampleLanes 1 2 k + exampleLanes 3 4 k).im) ∧
    Representable (exampleLanes 1 2 k - exampleLanes 3 4 k).re ∧ Representable (exampleLanes 1 2 k - exampleLanes 3 4 k).im := by
  intro k hk
  have hk : k = 0 ∨ k = 1 := by omega
  rcases hk with rfl | rfl
  · refine ⟨⟨representable_int 0x4010000000000000 4 ?_ ?_,
      representable_int 0x4018000000000000 6 ?_ ?_⟩,
      representable_int 0xC000000000000000 (-2) ?_ ?_,
      representable_int 0xC000000000000000 (-2) ?_ ?_⟩ <;> first | decide +kernel | norm_num [exampleLanes]
  · refine ⟨⟨representable_int 0x4010000000000000 4 ?_ ?_,
      representable_int 0xC018000000000000 (-6) ?_ ?_⟩,
      representable_int 0xC000000000000000 (-2) ?_ ?_,
      representable_int 0x4000000000000000 2 ?_ ?_⟩ <;> first | decide +kernel | norm_num [exampleLanes]

/-- Transforms that keep every value: they have the round trip property, whatever else they are. -/
def identityNumerics : Numerics where
  __ := Config.num
  fft _ p k := (p.getD k 0, 0)
  ifft _ g j := (g.getD j (0, 0)).1

theorem witness_RoundTripRecoversIntegers : FftRoundTrip identityNumerics ∧ [268435456, -268435456].length = 2 ^ 1 ∧
    ∀ z ∈ [(268435456 : Int), -268435456], |z| ≤ 2 ^ 28 := by
  refine ⟨?_, by decide, by decide⟩
  intro logn _ _ p hp hfin j hj
  have hj' : j < 2 ^ logn := hp ▸ hj
  have hback : identityNumerics.ifft logn ((List.range (2 ^ logn)).map (identityNumerics.fft logn p)) j = p[j] := by
    simp [identityNumerics, hj', hj]
  simp only [hback]
  exact ⟨(hfin _ (List.getElem_mem hj)).1, p[j], List.getElem_mem hj, by simp⟩

end Sys2Proof.Tests
end

section
/-! The configuration (R5) and the arithmetic of its root `psi_n` and of inverses modulo `Q` (R6, R8). -/

namespace Sys2Proof

/-- The parameters of this hardware meet the constraints of R5. -/
theorem Config.hw_wf : Config.hw.WF where
  prime := by norm_num [Config.hw]
  small := by decide
  split := by decide
  root := by decide +kernel
  lowPos := by decide
  lowMax := by decide

/-- The hardware's operations are the binary64 ones themselves, so the NaN of a result is the NaN that was drawn. -/
theorem Config.num_wf : Config.num.WF where
  fadd nan _ _ h := ⟨nan, h, rfl⟩
  fsub nan _ _ h := ⟨nan, h, rfl⟩
  fmul nan _ _ h := ⟨nan, h, rfl⟩
  fneg _ := rfl
  i2f _ _ := rfl
  fround _ := rfl

theorem Config.prau_wf : Config.prau.WF where
  params := Config.hw_wf
  num := Config.num_wf

/-- A prime that is 1 modulo 2048 is larger than 2048. -/
theorem Params.WF.lt_q {p : Params} (hp : p.WF) : 2048 < p.q := by
  have hne := hp.prime.ne_one
  have hsplit := hp.split
  omega

/-- A length `n` of at most 1024 is not 0 modulo `Q`. -/
theorem Params.WF.not_q_dvd_two_pow {p : Params} (hp : p.WF) {logn : Nat} (h : logn ≤ 10) : ¬ p.q ∣ 2 ^ logn := by
  have hn : 2 ^ logn ≤ 2 ^ 10 := Nat.pow_le_pow_right (by decide) h
  have hq := hp.lt_q
  exact Nat.not_dvd_of_pos_of_lt (Nat.two_pow_pos logn) (by omega)

end Sys2Proof

namespace Sys2Proof.Machine

/-- The inverse depends on the residue alone. -/
theorem invQ_mod (q x : Nat) : invQ q (x % q) = invQ q x := (Nat.pow_mod x (q - 2) q).symm

/-- R8 with log 19: the power that the machine takes is the inverse modulo a prime, by Fermat. -/
theorem invQ_mul_mod {q x : Nat} (hq : q.Prime) (hx : ¬ q ∣ x) : invQ q x * x % q = 1 := by
  have hfermat : x ^ (q - 1) % q = 1 % q := by
    rw [← Nat.totient_prime hq]
    exact Nat.ModEq.pow_totient ((hq.coprime_iff_not_dvd.mpr hx).symm)
  have hexp : q - 2 + 1 = q - 1 := by
    have := hq.two_le
    omega
  rw [invQ, Nat.mod_mul_mod, ← pow_succ, hexp, hfermat, Nat.mod_eq_of_lt hq.one_lt]

/-- `ninv_n · n = 1` modulo `Q` (R6). -/
theorem nInv_mul_mod {p : Params} (hp : p.WF) {logn : Nat} (h : logn ≤ 10) : nInv p logn * 2 ^ logn % p.q = 1 := by
  rw [nInv, invQ_mod]
  exact invQ_mul_mod hp.prime (hp.not_q_dvd_two_pow h)

theorem psiN_eq_rootOf (p : Params) (logn : Nat) : psiN p logn = Safety.rootOf p (2 ^ logn) := rfl

end Sys2Proof.Machine

namespace Sys2Proof.Safety

/-- `psi_n^n = PSI^1024` modulo `Q`, since `n` divides 1024. -/
theorem rootOf_pow_mod (p : Params) {logn : Nat} (h : logn ≤ 10) :
    rootOf p (2 ^ logn) ^ 2 ^ logn % p.q = p.psi ^ 1024 % p.q := by
  have hexp : 1024 / 2 ^ logn * 2 ^ logn = 1024 := Nat.div_mul_cancel (Nat.pow_dvd_pow 2 h)
  calc rootOf p (2 ^ logn) ^ 2 ^ logn % p.q
    _ = (p.psi ^ (1024 / 2 ^ logn)) ^ 2 ^ logn % p.q := (Nat.pow_mod ..).symm
    _ = p.psi ^ (1024 / 2 ^ logn * 2 ^ logn) % p.q := by rw [Nat.pow_mul]
    _ = p.psi ^ 1024 % p.q := by rw [hexp]

/-- Settles O50: R5's constraint `PSI^1024 = −1` gives `psi_n^n = −1`, and `n`, which the prime `Q` exceeds, has its inverse by
Fermat. -/
theorem rootHasOrderTwoN : Obligations.RootHasOrderTwoN := by
  refine ⟨Config.prau_wf, fun p logn hp _ hle => ⟨?_, Machine.nInv_mul_mod hp hle, Machine.psiN_eq_rootOf p logn⟩⟩
  rw [rootOf_pow_mod p hle, hp.root]

end Sys2Proof.Safety
end

section
/-! Typed lanes (R22, R24): the words of a lane that is put together from a narrower pattern, and what each view reads back. -/

namespace Sys2Proof.Machine

/-- A word of a narrow pattern is those bits of the pattern. -/
theorem laneWord_setWidth_eq {w : Nat} (x : BitVec w) (k : Nat) (hw : w ≤ 128) :
    laneWord (x.setWidth 128) k = x.extractLsb' (32 * k) 32 := by
  ext i hi
  by_cases hx : 32 * k + i < w
  · simp only [laneWord, BitVec.getElem_extractLsb', BitVec.getLsbD_setWidth, show 32 * k + i < 128 by omega,
      decide_true, Bool.true_and]
  · simp only [laneWord, BitVec.getElem_extractLsb', BitVec.getLsbD_setWidth,
      BitVec.getLsbD_of_ge x (32 * k + i) (by omega), Bool.and_false]

/-- The words of the lower half of an `F` lane are the real part's. -/
theorem laneWord_fLane_low {k : Nat} (x : F64 × F64) (h : k < 2) :
    laneWord (fLane x) k = x.1.extractLsb' (32 * k) 32 := by
  ext i hi
  simp only [laneWord, fLane, BitVec.getElem_extractLsb', BitVec.getLsbD_append, if_pos (show 32 * k + i < 64 by omega)]

/-- The words of the upper half of an `F` lane are the imaginary part's. -/
theorem laneWord_fLane_high (x : F64 × F64) (k : Nat) :
    laneWord (fLane x) (2 + k) = x.2.extractLsb' (32 * k) 32 := by
  ext i hi
  simp only [laneWord, fLane, BitVec.getElem_extractLsb', BitVec.getLsbD_append,
    if_neg (show ¬ 32 * (2 + k) + i < 64 by omega), show 32 * (2 + k) + i - 64 = 32 * k + i by omega]

/-- A 64-bit pattern is its two words. -/
theorem extractLsb'_append_words (x : F64) : x.extractLsb' 32 32 ++ x.extractLsb' 0 32 = x := by
  rw [BitVec.extractLsb'_append_extractLsb'_eq_extractLsb' (by rfl)]
  exact BitVec.extractLsb'_eq_self

theorem laneWord_zLane_zero (z : Int) : laneWord (zLane z) 0 = BitVec.ofInt 32 z := by
  rw [zLane, laneWord_setWidth_eq _ _ (by decide)]
  exact BitVec.extractLsb'_eq_self

theorem laneWord_zLane_high (z : Int) {k : Nat} (h : 1 ≤ k) : laneWord (zLane z) k = 0 :=
  laneWord_setWidth _ (by omega)

theorem laneWord_qLane_high (v : Nat) {k : Nat} (h : 1 ≤ k) : laneWord (qLane v) k = 0 :=
  laneWord_setWidth _ (by omega)

theorem laneWord_rLane (x : F64) (k : Nat) : laneWord (rLane x) k = x.extractLsb' (32 * k) 32 :=
  laneWord_setWidth_eq _ _ (by decide)

theorem laneWord_rLane_high (x : F64) {k : Nat} (h : 2 ≤ k) : laneWord (rLane x) k = 0 :=
  laneWord_setWidth _ (by omega)

theorem fOf_fLane (x : F64 × F64) : fOf (fLane x) = x := by
  rw [fOf, laneWord_fLane_low x (by decide), laneWord_fLane_low x (by decide), laneWord_fLane_high x 0, laneWord_fLane_high x 1]
  exact Prod.ext (extractLsb'_append_words x.1) (extractLsb'_append_words x.2)

end Sys2Proof.Machine

namespace Sys2Proof.Safety

open Sys2Proof.Machine

/-- Settles O18: each view's words are the value's, the words above it are zero, and so the view reads the value back. -/
theorem typedViewsReadBack : Obligations.TypedViewsReadBack := by
  refine ⟨fun z hlo hhi => ⟨zOf_zLane ⟨hlo, by omega⟩, laneWord_zLane_zero z, fun k hk _ => laneWord_zLane_high z hk⟩,
    fun v hv => ⟨qOf_qLane hv, qOf_qLane hv, fun k hk _ => laneWord_qLane_high v hk⟩,
    fun x => ⟨rOf_rLane x, laneWord_rLane x 0, laneWord_rLane x 1,
      laneWord_rLane_high x (by decide), laneWord_rLane_high x (by decide)⟩,
    fun re im => ⟨fOf_fLane (re, im), laneWord_fLane_low _ (by decide), laneWord_fLane_low _ (by decide),
      laneWord_fLane_high _ 0, laneWord_fLane_high _ 1⟩⟩

/-! Reset (R41, R231). -/

/-- Settles O16: the fields of `State.reset` as R41 lists them. -/
theorem resetValues : Obligations.ResetValues :=
  ⟨by decide, by decide, rfl, rfl, by decide, rfl, rfl, rfl, rfl, rfl, rfl, rfl⟩

/-- Settles O14: with bit 0 set the write to `CTRL` applies the reset that `rst` applies, and the counter moves on after both;
with bit 0 clear the write leaves the state. -/
theorem ctrlBitZeroResets : Obligations.CtrlBitZeroResets := by
  intro s v rest hleaf hinputs
  have hstep : step s = .next (((s.setInputs rest).setRdata none).writeCtrl v).tick := by
    rw [step_eq_stepIn, stepIn_move _ hleaf hinputs]
    rfl
  refine ⟨fun hbit => ?_, fun hbit => ?_⟩
  · rw [hstep, State.writeCtrl, if_pos hbit, step_eq_stepIn, stepIn_reset (rest := rest) Config.prau rfl]
    rfl
  · rw [hstep, State.writeCtrl, if_neg (Bool.eq_false_iff.mp hbit)]
    rfl

end Sys2Proof.Safety
end

section
/-! What a command can do (R90). Each command that answers a next state is dropped, faults, or commits in one of five shapes; the
statements about all commands follow from these shapes. The shape that writes lanes also says that the lanes meet the tag they
are stored under, given that those of the sources do (R25). -/

namespace Sys2Proof.Machine

/-! The checks, read backwards. -/

theorem firstFault_eq_none {cs : List (Option PrauFault)} : firstFault cs = none ↔ ∀ c ∈ cs, c = none := by
  refine ⟨fun h => ?_, firstFault_none⟩
  induction cs with
  | nil => simp
  | cons c cs ih =>
    cases c with
    | none => simpa using ih h
    | some f => simp at h

theorem legalCheck_eq_none {i : Instr} : legalCheck i = none ↔ WellFormed i = true := by simp [legalCheck]

theorem needsN_eq_none {s : State} : needsN s = none ↔ s.logn ≠ 0#4 := by simp [needsN]

theorem cfgCheck_eq_none {imm : BitVec 12} : cfgCheck imm = none ↔ 1 ≤ imm.toNat ∧ imm.toNat ≤ 10 := by
  simp only [cfgCheck, ite_eq_right_iff, reduceCtorEq, imp_false]
  omega

/-- Sources that pass step 3 carry an admitted combination of tags. -/
theorem tagCheck_eq_none_admits {s : State} {sources : List Reg} {admitted : List (List Tag)}
    (h : tagCheck s sources admitted = none) : (sources.map fun r => s.tags[r]) ∈ admitted := by
  by_contra hne
  by_cases he : ∃ r ∈ sources, s.tags[r] = .e
  · simp [tagCheck_unwritten he] at h
  · simp [tagCheck_domain (by simpa using he) hne] at h

theorem tagDataCheck_eq_none {q : Nat} {t : Tag} {ls : List Lane} :
    tagDataCheck q t ls = none ↔ ∀ c ∈ ls, tagAdmits q t c = true := by simp [tagDataCheck]

/-! Lists of lanes. -/

theorem State.forall_mem_lanewise1 {s : State} {a : Reg} {f : Nat → Lane → Lane} {P : Lane → Prop}
    (h : ∀ j x, P (f j x)) : ∀ c ∈ s.lanewise1 a f, P c := by
  simp only [State.lanewise1, List.forall_mem_map]
  exact fun j _ => h j _

theorem State.forall_mem_lanewise2 {s : State} {a b : Reg} {f : Nat → Lane → Lane → Lane} {P : Lane → Prop}
    (h : ∀ j x y, P (f j x y)) : ∀ c ∈ s.lanewise2 a b f, P c := by
  simp only [State.lanewise2, List.forall_mem_map]
  exact fun j _ => h j _ _

/-! Lengths and ranges of what the commands compute. -/

@[simp] theorem packBytes_length (L : Nat) (bits : List Bool) : (packBytes L bits).length = L := by
  induction L generalizing bits with
  | zero => rfl
  | succ L ih => simp [packBytes, ih]

/-- `compress` gives exactly the bytes it was asked for (R183). -/
theorem compress_length {p : Params} {cs : List Int} {L : Nat} {bs : List Byte} (h : compress p cs L = some bs) :
    bs.length = L := by
  simp only [compress, Option.ite_none_left_eq_some, Option.some.injEq] at h
  rw [← h.2, packBytes_length]

theorem readCoeffs_length {p : Params} {n : Nat} {bits rest : List Bool} {cs : List Int}
    (h : readCoeffs p n bits = some (cs, rest)) : cs.length = n := by
  induction n generalizing bits rest cs with
  | zero => simp_all [readCoeffs]
  | succ n ih =>
    rw [readCoeffs] at h
    split at h
    · simp at h
    · simp only [Option.map_eq_some_iff, Prod.mk.injEq, Prod.exists] at h
      obtain ⟨cs', rest', hread, rfl, rfl⟩ := h
      rw [List.length_cons, ih hread]

/-- `decompress` gives as many coefficients as it was asked for (R185). -/
theorem decompress_length {p : Params} {bs : List Byte} {n : Nat} {cs : List Int} (h : decompress p bs n = some cs) :
    cs.length = n := by
  rw [decompress] at h
  split at h
  · simp at h
  · next hread =>
    simp only [Option.ite_none_left_eq_some, Option.some.injEq] at h
    exact h.2 ▸ readCoeffs_length hread

@[simp] theorem ntt_length (p : Params) (logn : Nat) (a : List Nat) : (ntt p logn a).length = 2 ^ logn := by simp [ntt]

@[simp] theorem intt_length (p : Params) (logn : Nat) (A : List Nat) : (intt p logn A).length = 2 ^ logn := by simp [intt]

theorem mem_ntt_lt {p : Params} {logn : Nat} {a : List Nat} (hq : 0 < p.q) : ∀ v ∈ ntt p logn a, v < p.q := by
  simp only [ntt, List.forall_mem_map]
  exact fun _ _ => Nat.mod_lt _ hq

theorem mem_intt_lt {p : Params} {logn : Nat} {A : List Nat} (hq : 0 < p.q) : ∀ v ∈ intt p logn A, v < p.q := by
  simp only [intt, List.forall_mem_map]
  exact fun _ _ => Nat.mod_lt _ hq

theorem modQ_lt {q : Nat} (hq : 0 < q) (x : Int) : modQ q x < q := by
  rw [modQ, Int.toNat_lt (Int.emod_nonneg x (by omega))]
  exact Int.emod_lt_of_pos x (by omega)

end Sys2Proof.Machine

namespace Sys2Proof.Safety

open Sys2Proof.Machine

/-! Lanes that meet their tag (R25, R93). -/

/-- What passes `TAG`'s data check meets the tag. -/
theorem meetsTag_of_tagAdmits {t : Tag} {c : Lane} (h : tagAdmits Config.hw.q t c = true) : MeetsTag t c := by
  cases t <;> simp_all [tagAdmits, MeetsTag]

theorem meetsTag_z_zLane (z : Int) : MeetsTag .z (zLane z) := by
  simp [MeetsTag, laneWord_zLane_high]

/-- A residue stored as a `Q` or `N` lane meets that tag. -/
theorem meetsTag_qLane {t : Tag} (ht : t = .q ∨ t = .n) {v : Nat} (hv : v < Config.hw.q) : MeetsTag t (qLane v) := by
  have hv32 : v < 2 ^ 32 := hv.trans (by decide)
  have hword : (laneWord (qLane v) 0).toNat = v := qOf_qLane hv32
  rcases ht with rfl | rfl <;> simp [MeetsTag, laneWord_qLane_high, hword, hv]

theorem meetsTag_r_rLane (x : F64) : MeetsTag .r (rLane x) := by
  simp [MeetsTag, laneWord_rLane_high]

theorem meetsTag_f (c : Lane) : MeetsTag .f c := by simp [MeetsTag]

theorem meetsTag_realOrComplex {t : Tag} (ht : t = .r ∨ t = .f) (op : Nat → F64 → F64 → F64) (x y : Lane) :
    MeetsTag t (realOrComplex t op x y) := by
  rcases ht with rfl | rfl
  · exact meetsTag_r_rLane _
  · exact meetsTag_f _

theorem meetsTag_negLane (num : Numerics) {t : Tag} (ht : t = .r ∨ t = .f) (x : Lane) : MeetsTag t (negLane num t x) := by
  rcases ht with rfl | rfl
  · exact meetsTag_r_rLane _
  · exact meetsTag_f _

/-! The shapes. -/

/-- All that executing `i` in `s` can end in. -/
inductive Effect (i : Instr) (s : State) : State → Prop
  /-- Step 0 of R90: a faulted machine drops the command. -/
  | dropped (hfault : s.fault ≠ none) : Effect i s s
  /-- Steps 1 to 4: fault entry. -/
  | faulted (f : PrauFault) : Effect i s (s.faultEntry f (encode i))
  /-- Only the result code: `NOP`, `COMPRESS` on `Overflow`, `DECOMPRESS` on `Malformed`. -/
  | result (c : Res) : Effect i s (s.setRes c)
  /-- `CFG`. -/
  | configured (imm : BitVec 12) (hi : i = .cfg imm) (hpos : 1 ≤ imm.toNat) (hmax : imm.toNat ≤ 10) :
      Effect i s (((s.setLogn (imm.setWidth 4)).clearTags).setRes .ok)
  /-- The commands with a destination: its active lanes, and its tag. -/
  | lanes (rd : Reg) (t : Tag) (ls : List Lane) (hi : destination i = some rd) (hlogn : s.logn ≠ 0#4)
      (hlength : ls.length = s.n) (hmeets : TagsHold s → ∀ c ∈ ls, MeetsTag t c) : Effect i s (s.commitLanes rd t ls)
  /-- `COMPRESS` when the codes fit. -/
  | compressed (rs1 : Reg) (imm : BitVec 12) (bs : List Byte) (hi : i = .compress rs1 imm)
      (hlength : bs.length = imm.toNat) : Effect i s (((s.store (bbAddr 0) bs).setBlen imm).setRes .ok)
  /-- `SAMPLEZ` starts its draw. -/
  | sampled (hi : i = .samplez) (hfault : s.fault = none) : Effect i s (s.leafAdvance Config.prau ⟨0, []⟩)

/-- A command has one of the shapes when its commit, made with all checks passed, has. -/
theorem effect_of_commit {i : Instr} {s t : State} {checks : List (Option PrauFault)} {commit : State → State}
    (h : runCommand i s checks commit = .next t)
    (hcommit : s.fault = none → WellFormed i = true → (∀ c ∈ checks, c = none) → Effect i s (commit s)) :
    Effect i s t := by
  rcases runCommand_next h with ⟨hf, rfl⟩ | ⟨-, f, -, rfl⟩ | ⟨hf, hchecks, rfl⟩
  · exact .dropped hf
  · exact .faulted f
  · rw [firstFault_eq_none, List.forall_mem_cons, legalCheck_eq_none] at hchecks
    exact hcommit hf hchecks.1 hchecks.2

/-- A command with a destination that depends on `n` and has sources: it has the shape that writes lanes when there is one lane
for each active lane and they meet the tag, given that the sources' tags are admitted and the further checks pass. -/
theorem effect_of_lanes {i : Instr} {s t : State} {rd : Reg} {tag : Tag} {ls : List Lane} {sources : List Reg}
    {admitted : List (List Tag)} {checks : List (Option PrauFault)} {commit : State → State}
    (h : runCommand i s (needsN s :: tagCheck s sources admitted :: checks) commit = .next t)
    (hcommit : commit s = s.commitLanes rd tag ls) (hi : destination i = some rd) (hlength : ls.length = s.n)
    (hmeets : (sources.map fun r => s.tags[r]) ∈ admitted → (∀ c ∈ checks, c = none) → TagsHold s →
      ∀ c ∈ ls, MeetsTag tag c) : Effect i s t := by
  refine effect_of_commit h fun _ _ hchecks => ?_
  simp only [List.forall_mem_cons, needsN_eq_none] at hchecks
  obtain ⟨hlogn, htags, hrest⟩ := hchecks
  rw [hcommit]
  exact .lanes rd tag ls hi hlogn hlength (hmeets (tagCheck_eq_none_admits htags) hrest)

/-- Residues stored under `Q` or `N` meet the tag. -/
theorem meetsTag_map_qLane {t : Tag} (ht : t = .q ∨ t = .n) {vs : List Nat} (h : ∀ v ∈ vs, v < Config.hw.q) :
    ∀ c ∈ vs.map qLane, MeetsTag t c := by
  rw [List.forall_mem_map]
  exact fun v hv => meetsTag_qLane ht (h v hv)

/-- The active lanes of a typed register meet its tag. -/
theorem TagsHold.meetsTag_lanes {s : State} (h : TagsHold s) {r : Reg} (ht : s.tags[r].typed = true) :
    ∀ c ∈ s.lanes r, MeetsTag s.tags[r] c := by
  simp only [State.lanes, List.forall_mem_map, List.mem_range]
  exact (h r ht).2.2

/-- Two sources with the same tag, one of two: the tag of the first. -/
theorem eq_or_eq_of_mem_pairs {t t' a b : Tag} (h : [t, t'] ∈ [[a, a], [b, b]]) : t = a ∨ t = b := by
  simp only [List.mem_cons, List.cons.injEq, List.not_mem_nil, or_false] at h
  exact h.imp And.left And.left

/-- Every command that answers a next state has one of the shapes. -/
theorem exec_effect {i : Instr} {s t : State} (h : exec i s = .next t) : Effect i s t := by
  have hq : 0 < Config.hw.q := by decide
  cases i <;> simp only [exec, execNop, execCfg, execTag, execMov, execNtt, execIntt, execAddq, execSubq, execNegq,
    execMuln, execDivn, execMulq, execDivq, execReduce, execCenter, execFft, execIfft, execAddf, execSubf, execNegf,
    execMulf, execRound, execSamplez, execCompress, execDecompress] at h
  case nop => exact effect_of_commit h fun _ _ _ => .result .ok
  case cfg imm =>
    refine effect_of_commit h fun _ _ hchecks => ?_
    obtain ⟨hpos, hmax⟩ := cfgCheck_eq_none.mp (hchecks (cfgCheck imm) (by simp))
    exact .configured imm rfl hpos hmax
  case tag rd t =>
    refine effect_of_lanes h rfl rfl (s.lanes_length rd) fun _ hdata _ c hc => ?_
    exact meetsTag_of_tagAdmits (tagDataCheck_eq_none.mp (hdata _ (by simp)) c hc)
  case mov rd rs1 =>
    refine effect_of_lanes h rfl rfl (s.lanes_length rs1) fun htags _ hs => hs.meetsTag_lanes ?_
    have ht : s.tags[rs1] = .z ∨ s.tags[rs1] = .q ∨ s.tags[rs1] = .n ∨ s.tags[rs1] = .r ∨ s.tags[rs1] = .f := by
      simpa using htags
    rcases ht with ht | ht | ht | ht | ht <;> simp [ht, Tag.typed]
  case ntt rd rs1 =>
    exact effect_of_lanes h rfl rfl (by simp [State.n]) fun _ _ _ => meetsTag_map_qLane (.inr rfl) (mem_ntt_lt hq)
  case intt rd rs1 =>
    exact effect_of_lanes h rfl rfl (by simp [State.n]) fun _ _ _ => meetsTag_map_qLane (.inl rfl) (mem_intt_lt hq)
  case addq rd rs1 rs2 =>
    refine effect_of_lanes h rfl rfl (s.lanewise2_length ..) fun htags _ _ => State.forall_mem_lanewise2 fun _ _ _ => ?_
    exact meetsTag_qLane (eq_or_eq_of_mem_pairs htags) (modQ_lt hq _)
  case subq rd rs1 rs2 =>
    refine effect_of_lanes h rfl rfl (s.lanewise2_length ..) fun htags _ _ => State.forall_mem_lanewise2 fun _ _ _ => ?_
    exact meetsTag_qLane (eq_or_eq_of_mem_pairs htags) (modQ_lt hq _)
  case negq rd rs1 =>
    refine effect_of_lanes h rfl rfl (s.lanewise1_length ..) fun htags _ _ => State.forall_mem_lanewise1 fun _ _ => ?_
    exact meetsTag_qLane (by simpa using htags) (modQ_lt hq _)
  case muln rd rs1 rs2 =>
    exact effect_of_lanes h rfl rfl (s.lanewise2_length ..) fun _ _ _ => State.forall_mem_lanewise2 fun _ _ _ =>
      meetsTag_qLane (.inr rfl) (Nat.mod_lt _ hq)
  case divn rd rs1 rs2 =>
    exact effect_of_lanes h rfl rfl (s.lanewise2_length ..) fun _ _ _ => State.forall_mem_lanewise2 fun _ _ _ =>
      meetsTag_qLane (.inr rfl) (Nat.mod_lt _ hq)
  case mulq rd rs1 rs2 =>
    exact effect_of_lanes h rfl rfl (by simp [State.n, mulRing]) fun _ _ _ =>
      meetsTag_map_qLane (.inl rfl) (mem_intt_lt hq)
  case divq rd rs1 rs2 =>
    exact effect_of_lanes h rfl rfl (by simp [State.n, divRing]) fun _ _ _ =>
      meetsTag_map_qLane (.inl rfl) (mem_intt_lt hq)
  case reduce rd rs1 =>
    exact effect_of_lanes h rfl rfl (s.lanewise1_length ..) fun _ _ _ => State.forall_mem_lanewise1 fun _ _ =>
      meetsTag_qLane (.inl rfl) (modQ_lt hq _)
  case center rd rs1 =>
    exact effect_of_lanes h rfl rfl (s.lanewise1_length ..) fun _ _ _ => State.forall_mem_lanewise1 fun _ _ =>
      meetsTag_z_zLane _
  case fft rd rs1 => exact effect_of_lanes h rfl rfl (by simp [State.n, fftLanes]) fun _ _ _ c _ => meetsTag_f c
  case ifft rd rs1 =>
    refine effect_of_lanes h rfl rfl (by simp [State.n, ifftLanes]) fun _ _ _ => ?_
    simp only [ifftLanes, List.forall_mem_map]
    exact fun _ _ => meetsTag_r_rLane _
  case addf rd rs1 rs2 =>
    refine effect_of_lanes h rfl rfl (s.lanewise2_length ..) fun htags _ _ => State.forall_mem_lanewise2 fun _ _ _ => ?_
    exact meetsTag_realOrComplex (eq_or_eq_of_mem_pairs htags) _ _ _
  case subf rd rs1 rs2 =>
    refine effect_of_lanes h rfl rfl (s.lanewise2_length ..) fun htags _ _ => State.forall_mem_lanewise2 fun _ _ _ => ?_
    exact meetsTag_realOrComplex (eq_or_eq_of_mem_pairs htags) _ _ _
  case negf rd rs1 =>
    refine effect_of_lanes h rfl rfl (s.lanewise1_length ..) fun htags _ _ => State.forall_mem_lanewise1 fun _ _ => ?_
    exact meetsTag_negLane _ (by simpa using htags) _
  case mulf rd rs1 rs2 => exact effect_of_lanes h rfl rfl (s.lanewise2_length ..) fun _ _ _ c _ => meetsTag_f c
  case round rd rs1 =>
    exact effect_of_lanes h rfl rfl (s.lanewise1_length ..) fun _ _ _ => State.forall_mem_lanewise1 fun _ _ =>
      meetsTag_z_zLane _
  case samplez => exact effect_of_commit h fun hfault _ _ => .sampled rfl hfault
  case compress rs1 imm =>
    refine effect_of_commit h fun _ _ _ => ?_
    cases hc : compress Config.prau.params (s.zs rs1) imm.toNat with
    | none => exact .result .overflow
    | some bs => exact .compressed rs1 imm bs rfl (compress_length hc)
  case decompress rd imm =>
    refine effect_of_commit h fun _ _ hchecks => ?_
    have hlogn := needsN_eq_none.mp (hchecks (needsN s) (by simp))
    cases hc : decompress Config.prau.params (s.bytesAt (bbAddr 0) imm.toNat) s.n with
    | none => exact .result .malformed
    | some cs =>
      refine .lanes rd .z (cs.map zLane) rfl hlogn (by simp [decompress_length hc]) fun _ => ?_
      simp only [List.forall_mem_map]
      exact fun z _ => meetsTag_z_zLane z

end Sys2Proof.Safety
end

section
/-! What no command changes (R30 to R35, R42). -/

namespace Sys2Proof.Machine

/-- A draw that goes on or ends (R163) writes the registers of `SAMPLEZ`, the fault registers and the result code, and nothing
else. -/
theorem State.leafSettle_frame (s : State) (o : LeafOutcome) :
    ∃ fault res fcmd sz rejcnt leaf rngPos, s.leafSettle o =
      { s with fault := fault, res := res, fcmd := fcmd, sz := sz, rejcnt := rejcnt, leaf := leaf, rngPos := rngPos } := by
  cases o with
  | pending rej taken pos => exact ⟨_, _, _, _, _, _, _, rfl⟩
  | accepted z rej pos =>
    simp only [State.leafSettle, State.setLeaf, State.setRngPos, State.setSz, State.setRejcnt, State.setRes,
      State.faultEntry]
    split <;> exact ⟨_, _, _, _, _, _, _, rfl⟩

end Sys2Proof.Machine

namespace Sys2Proof.Safety

open Sys2Proof.Machine

theorem outside_lanes_of_not_mayWrite {i : Instr} {s : State} {rd : Reg} {a : Nat} (hi : destination i = some rd)
    (h : ¬ MayWrite i s a) : a < laneAddr rd 0 ∨ laneAddr rd s.n ≤ a := by
  by_contra hin
  exact h (.inl ⟨rd, hi, by omega, by omega⟩)

theorem outside_bytes_of_not_mayWrite {rs1 : Reg} {imm : BitVec 12} {s : State} {a : Nat}
    (h : ¬ MayWrite (.compress rs1 imm) s a) : a < bbAddr 0 ∨ bbAddr imm.toNat ≤ a := by
  by_contra hin
  exact h (.inr ⟨rs1, imm, rfl, by omega, by omega⟩)

/-- Settles O49: each of the shapes in which a command can end leaves alone what is not its own. -/
theorem commandsKeepTheirFrame : Obligations.CommandsKeepTheirFrame := by
  intro i s t h
  cases exec_effect h with
  | dropped => simp
  | faulted f => simp
  | result c => simp
  | configured imm hi =>
    subst hi
    simp
  | lanes rd tag ls hi hlogn hlength =>
    have htags : ∀ r : Reg, rd ≠ r → (s.commitLanes rd tag ls).tags[r] = s.tags[r] := fun r hr =>
      Vector.getElem_set_ne rd.isLt r.isLt (Fin.val_ne_of_ne hr)
    have hbytes : ∀ a, ¬ MayWrite i s a → (s.commitLanes rd tag ls).byteAt a = s.byteAt a := fun a ha =>
      s.commitLanes_byteAt rd tag ls a (hlength ▸ outside_lanes_of_not_mayWrite hi ha)
    simpa [hi] using ⟨fun _ => htags, hbytes⟩
  | compressed rs1 imm bs hi hlength =>
    subst hi
    have hbytes : ∀ a, ¬ MayWrite (.compress rs1 imm) s a → (s.store (bbAddr 0) bs).byteAt a = s.byteAt a := fun a ha =>
      s.store_byteAt_outside _ _ _ (hlength ▸ outside_bytes_of_not_mayWrite ha)
    simpa using hbytes
  | sampled hi =>
    obtain ⟨_, _, _, _, _, _, _, hs⟩ := s.leafSettle_frame _
    rw [State.leafAdvance, hs]
    simp [hi, State.byteAt]

end Sys2Proof.Safety
end

section
/-! The invariant of every reachable state (R25, R28, R30, R50): what stores keep of it, then commands, host moves and steps. -/

namespace Sys2Proof.Machine

/-! Storage. -/

/-- Offsets outside a stored run are listed as before. -/
theorem Memory.lookup_store_outside (m : Memory) {a x : Nat} {bs : List Byte} (h : x < a ∨ a + bs.length ≤ x) :
    Memory.lookup (Memory.store m a bs) x = Memory.lookup m x := by
  rw [Memory.lookup_store, if_neg (by omega)]

theorem Memory.mem_insert {m : Memory} {a : Nat} {b : Byte} {c : Host.Cell} (h : c ∈ Memory.insert m a b) :
    c = (a, b) ∨ c ∈ m := by
  induction m with
  | nil => simpa [Memory.insert] using h
  | cons d m ih =>
    simp only [Memory.insert] at h
    split at h
    · simpa using h
    · split at h <;> simp only [List.mem_cons] at h ⊢ <;> tauto

/-- A listed offset was listed before or lies in the stored run. -/
theorem Memory.mem_store {m : Memory} {a : Nat} {bs : List Byte} {c : Host.Cell} (h : c ∈ Memory.store m a bs) :
    c ∈ m ∨ (a ≤ c.1 ∧ c.1 < a + bs.length) := by
  induction bs generalizing m a with
  | nil => exact .inl h
  | cons b bs ih =>
    rw [List.length_cons]
    rcases ih h with hin | hrun
    · rcases Memory.mem_insert hin with rfl | hm
      · exact .inr ⟨le_rfl, by simp⟩
      · exact .inl hm
    · exact .inr (by omega)

/-- A listed byte reads the same in every step. -/
theorem State.byteAt_congr_of_listed {s t : State} {a : Nat} (hlisted : (Memory.lookup s.mem a).isSome)
    (h : Memory.lookup t.mem a = Memory.lookup s.mem a) : t.byteAt a = s.byteAt a := by
  obtain ⟨b, hb⟩ := Option.isSome_iff_exists.mp hlisted
  rw [State.byteAt, State.byteAt, h, hb, Option.getD_some, Option.getD_some]

/-- An aligned word of the polynomial window lies within the lanes of its register (R56). -/
theorem polyReg_bounds {a : Nat} (h : inPoly a = true) (hal : a % 4 = 0) :
    laneAddr (polyReg a) 0 ≤ a ∧ a + 4 ≤ laneAddr (polyReg a) 1024 := by
  rw [inPoly_iff] at h
  simp only [laneAddr, polyReg, Fin.val_ofNat]
  omega

end Sys2Proof.Machine

namespace Sys2Proof.Safety

open Sys2Proof.Machine

/-- Storing a run that lies in the windows keeps storage in the windows. -/
theorem StorageMapped.store {m : Memory} {a : Nat} {bs : List Byte} (h : StorageMapped m)
    (hrun : ∀ x, a ≤ x → x < a + bs.length → inBB x = true ∨ inPoly x = true) :
    StorageMapped (Memory.store m a bs) := by
  intro c hc
  rcases Memory.mem_store hc with hold | ⟨hlo, hhi⟩
  · exact h c hold
  · exact hrun c.1 hlo hhi

/-! Registers that hold their tag. -/

/-- What TagsHold says of one register. -/
def RegHolds (s : State) (r : Reg) : Prop :=
  s.tags[r].typed → s.logn ≠ 0#4 ∧ LanesListed s r ∧ ∀ j < s.n, MeetsTag s.tags[r] (s.lane r j)

theorem tagsHold_iff (s : State) : TagsHold s ↔ ∀ r, RegHolds s r := Iff.rfl

theorem RegHolds.of_untyped {s : State} {r : Reg} (h : s.tags[r].typed = false) : RegHolds s r :=
  fun ht => nomatch h.symm.trans ht

/-- A register holds its tag as before when its tag, `LOGN` and the listed bytes of its active lanes are as before. -/
theorem RegHolds.congr {s t : State} {r : Reg} (h : RegHolds s r) (htag : t.tags[r] = s.tags[r]) (hlogn : t.logn = s.logn)
    (hmem : ∀ j < s.n, ∀ b < 16, Memory.lookup t.mem (laneAddr r j + b) = Memory.lookup s.mem (laneAddr r j + b)) :
    RegHolds t r := by
  intro htyped
  rw [htag] at htyped ⊢
  obtain ⟨hn, hlisted, hmeets⟩ := h htyped
  have hnt : t.n = s.n := by rw [State.n, State.n, hlogn]
  refine ⟨hlogn ▸ hn, fun j hj b hb => ?_, fun j hj => ?_⟩
  · rw [hmem j (hnt ▸ hj) b hb]
    exact hlisted j (hnt ▸ hj) b hb
  · have hlane : t.lane r j = s.lane r j := by
      rw [State.lane, State.lane, State.bytesAt_congr fun b hb =>
        State.byteAt_congr_of_listed (hlisted j (hnt ▸ hj) b hb) (hmem j (hnt ▸ hj) b hb)]
    rw [hlane]
    exact hmeets j (hnt ▸ hj)

/-- A register whose tag and `LOGN` are as before holds its tag after a run is stored apart from its active lanes. -/
theorem RegHolds.congr_store {s t : State} {r : Reg} {a : Nat} {bs : List Byte} (h : RegHolds s r)
    (htag : t.tags[r] = s.tags[r]) (hlogn : t.logn = s.logn) (hmem : t.mem = Memory.store s.mem a bs)
    (hout : laneAddr r s.n ≤ a ∨ a + bs.length ≤ laneAddr r 0) : RegHolds t r := by
  refine h.congr htag hlogn fun j hj b hb => ?_
  rw [hmem]
  refine Memory.lookup_store_outside _ ?_
  rw [laneAddr_eq r j]
  rw [laneAddr_eq r s.n] at hout
  omega

/-- Written lanes that meet the tag they are stored under make the register hold its tag. -/
theorem regHolds_commitLanes {s : State} {rd : Reg} {t : Tag} {ls : List Lane} (hlogn : s.logn ≠ 0#4)
    (hlength : ls.length = s.n) (hmeets : ∀ c ∈ ls, MeetsTag t c) : RegHolds (s.commitLanes rd t ls) rd := by
  have htag : (s.commitLanes rd t ls).tags[rd] = t := Vector.getElem_set_self rd.isLt
  intro _
  rw [htag]
  refine ⟨hlogn, fun j hj b hb => s.putLanes_listed rd ls j b (hlength ▸ hj) hb, fun j hj => ?_⟩
  rw [s.commitLanes_lane rd t ls j (hlength ▸ hj)]
  exact hmeets _ (List.getElem_mem _)

/-! The invariant after each kind of change. -/

theorem Inv.regHolds {s : State} (h : Inv s) (r : Reg) : RegHolds s r := (tagsHold_iff s).mp h.tags r

theorem Inv.n_le {s : State} (h : Inv s) : s.n ≤ 1024 := Nat.pow_le_pow_right (by decide) h.logn

/-- The invariant says nothing of the registers outside storage, tags, `LOGN` and the fault registers. -/
theorem Inv.congr {s t : State} (h : Inv s) (hmem : t.mem = s.mem) (htags : t.tags = s.tags) (hlogn : t.logn = s.logn)
    (hfcmd : t.fault = none → t.fcmd = 0) (hrunning : t.leaf.isSome → t.fault = none) : Inv t where
  canonical := hmem ▸ h.canonical
  mapped := hmem ▸ h.mapped
  logn := hlogn ▸ h.logn
  tags := (tagsHold_iff t).mpr fun r => RegHolds.congr (h.regHolds r) (by rw [htags]) hlogn fun _ _ _ _ => by rw [hmem]
  fcmd := hfcmd
  running := hrunning

/-- The invariant after a run in the windows is stored, given what becomes of the tags. -/
theorem Inv.store {s t : State} {a : Nat} {bs : List Byte} (h : Inv s) (hmem : t.mem = Memory.store s.mem a bs)
    (hrun : ∀ x, a ≤ x → x < a + bs.length → inBB x = true ∨ inPoly x = true) (hlogn : t.logn = s.logn)
    (hfault : t.fault = s.fault) (hfcmd : t.fcmd = s.fcmd) (hleaf : t.leaf = s.leaf) (htags : TagsHold t) : Inv t where
  canonical := hmem ▸ Memory.store_wf a bs h.canonical
  mapped := hmem ▸ h.mapped.store hrun
  logn := hlogn ▸ h.logn
  tags := htags
  fcmd := by rw [hfault, hfcmd]; exact h.fcmd
  running := by rw [hleaf, hfault]; exact h.running

/-- A machine without a typed register, with nothing running: reset and `CFG` leave one. -/
theorem inv_of_untyped {t : State} (hcanonical : Memory.wf t.mem = true) (hmapped : StorageMapped t.mem)
    (hlogn : t.logn.toNat ≤ 10) (htags : t.tags = Vector.replicate 8 .e) (hfcmd : t.fault = none → t.fcmd = 0)
    (hrunning : t.leaf.isSome → t.fault = none) : Inv t where
  canonical := hcanonical
  mapped := hmapped
  logn := hlogn
  tags := (tagsHold_iff t).mpr fun r => RegHolds.of_untyped (by simp [htags, Tag.typed])
  fcmd := hfcmd
  running := hrunning

/-- Reset of any state. -/
theorem inv_applyReset (s : State) : Inv s.applyReset :=
  inv_of_untyped rfl (by simp [StorageMapped]) (by simp) rfl (fun _ => rfl) (by simp)

/-- Settles O46: it is the reset of itself. -/
theorem resetHasInvariant : Obligations.ResetHasInvariant := inv_applyReset State.reset

theorem Inv.faultEntry {s : State} (h : Inv s) (hleaf : s.leaf = none) (f : PrauFault) (c : Word) :
    Inv (s.faultEntry f c) :=
  h.congr rfl rfl rfl (by simp) (by simp [hleaf])

theorem Inv.setRdata {s : State} (h : Inv s) (w : Option Word) : Inv (s.setRdata w) := h.congr rfl rfl rfl h.fcmd h.running

theorem Inv.setInputs {s : State} (h : Inv s) (ops : List HostOp) : Inv (s.setInputs ops) :=
  h.congr rfl rfl rfl h.fcmd h.running

theorem Inv.tick {s : State} (h : Inv s) : Inv s.tick := h.congr rfl rfl rfl h.fcmd h.running

/-- Writing the active lanes of a register with lanes that meet the new tag. -/
theorem Inv.commitLanes {s : State} (h : Inv s) {rd : Reg} {t : Tag} {ls : List Lane} (hlogn : s.logn ≠ 0#4)
    (hlength : ls.length = s.n) (hmeets : ∀ c ∈ ls, MeetsTag t c) : Inv (s.commitLanes rd t ls) := by
  have hn := h.n_le
  refine h.store rfl (fun x hlo hhi => .inr ?_) rfl rfl rfl rfl ((tagsHold_iff _).mpr fun r => ?_)
  · rw [inPoly_iff]
    simp only [laneAddr, laneBytes_length, hlength] at hlo hhi
    omega
  · by_cases hr : r = rd
    · exact hr ▸ regHolds_commitLanes hlogn hlength hmeets
    · have hval : r.val ≠ rd.val := Fin.val_ne_of_ne hr
      refine RegHolds.congr_store (h.regHolds r) (Vector.getElem_set_ne rd.isLt r.isLt hval.symm) rfl rfl ?_
      simp only [laneAddr, laneBytes_length, hlength]
      omega

/-- Storing bytes in `BB`. -/
theorem Inv.storeBB {s t : State} {a : Nat} {bs : List Byte} (h : Inv s) (hmem : t.mem = Memory.store s.mem a bs)
    (hlo : 0x1000 ≤ a) (hhi : a + bs.length ≤ 0x2000) (htags : t.tags = s.tags) (hlogn : t.logn = s.logn)
    (hfault : t.fault = s.fault) (hfcmd : t.fcmd = s.fcmd) (hleaf : t.leaf = s.leaf) : Inv t := by
  refine h.store hmem (fun x hx hx' => .inl (inBB_iff.mpr (by omega))) hlogn hfault hfcmd hleaf ((tagsHold_iff t).mpr fun r => ?_)
  refine RegHolds.congr_store (h.regHolds r) (by rw [htags]) hlogn hmem (.inr ?_)
  simp only [laneAddr]
  omega

/-- A host write of a word to the polynomial window makes its register `RAW` (R56). -/
theorem Inv.storePoly {s : State} {a : Nat} {bs : List Byte} (h : Inv s) (ha : inPoly a = true) (hal : a % 4 = 0)
    (hlength : bs.length = 4) : Inv ((s.store a bs).setTag (polyReg a) .raw) := by
  have hn := h.n_le
  obtain ⟨hlo, hhi⟩ := polyReg_bounds ha hal
  refine h.store rfl (fun x hx hx' => .inr ?_) rfl rfl rfl rfl ((tagsHold_iff _).mpr fun r => ?_)
  · rw [inPoly_iff] at ha ⊢
    omega
  · by_cases hr : r = polyReg a
    · subst hr
      exact RegHolds.of_untyped (by simp [Tag.typed])
    · have hval : r.val ≠ (polyReg a).val := Fin.val_ne_of_ne hr
      refine RegHolds.congr_store (h.regHolds r) (Vector.getElem_set_ne (polyReg a).isLt r.isLt hval.symm) rfl rfl ?_
      simp only [laneAddr] at hlo hhi ⊢
      omega

/-- A draw that goes on or ends in an unfaulted machine: while it runs there is no fault, and a fault ends it. -/
theorem Inv.leafSettle {s : State} (h : Inv s) (hfault : s.fault = none) (o : LeafOutcome) : Inv (s.leafSettle o) := by
  have hfcmd := h.fcmd hfault
  cases o with
  | pending rej taken pos => exact h.congr rfl rfl rfl (fun _ => hfcmd) fun _ => hfault
  | accepted z rej pos =>
    simp only [State.leafSettle]
    split
    · exact h.congr (by simp) (by simp) (by simp) (by simp [hfcmd]) (by simp)
    · exact h.congr (by simp) (by simp) (by simp) (by simp) (by simp)

theorem Inv.leafAdvance {s : State} (h : Inv s) (hfault : s.fault = none) (cfg : Configuration) (run : LeafRun) :
    Inv (s.leafAdvance cfg run) :=
  h.leafSettle hfault _

/-! Commands, host moves, steps. -/

/-- Every command keeps the invariant in a machine with no draw running. -/
theorem exec_keeps_inv {i : Instr} {s t : State} (h : Inv s) (hleaf : s.leaf = none) (he : exec i s = .next t) : Inv t := by
  cases exec_effect he with
  | dropped => exact h
  | faulted f => exact h.faultEntry hleaf f _
  | result c => exact h.congr rfl rfl rfl h.fcmd h.running
  | configured imm hi hpos hmax =>
    refine inv_of_untyped h.canonical h.mapped ?_ rfl h.fcmd h.running
    exact (Nat.mod_le _ _).trans hmax
  | lanes rd tag ls hi hlogn hlength hmeets => exact h.commitLanes hlogn hlength (hmeets h.tags)
  | compressed rs1 imm bs hi hlength =>
    have himm := imm.isLt
    exact h.storeBB rfl (by decide) (by simp only [bbAddr]; omega) rfl rfl rfl rfl rfl
  | sampled hi hfault => exact h.leafAdvance hfault _ _

/-- An aligned write to an offset that is neither `CMD` nor `CTRL`, in an unfaulted machine. -/
theorem Inv.writeStorage {s : State} (h : Inv s) {off : Offset} (hal : off.toNat % 4 = 0) (v : Word) :
    Inv (s.writeStorage off v) := by
  generalize ha : off.toNat = a at hal
  unfold State.writeStorage
  rw [ha]
  split
  iterate 8 exact h.congr rfl rfl rfl h.fcmd h.running
  split
  · next hbb =>
    rw [inBB_iff] at hbb
    exact h.storeBB rfl hbb.1 (by simp only [leBytes_length]; omega) rfl rfl rfl rfl rfl
  · split
    · next hpoly => exact h.storePoly hpoly hal (leBytes_length 4 _)
    · exact h

theorem submit_keeps_inv {c : Word} {s t : State} (h : Inv s) (hleaf : s.leaf = none)
    (hs : submit Config.prau c s = .next t) : Inv t := by
  rw [submit] at hs
  split at hs
  · exact exec_keeps_inv h hleaf (exec_eq_execIn _ _ ▸ hs)
  · split at hs
    · cases hs
      exact h
    · cases hs
      exact h.faultEntry hleaf _ _

theorem hostWrite_keeps_inv {off : Offset} {v : Word} {s t : State} (h : Inv s) (hleaf : s.leaf = none)
    (hal : off.toNat % 4 = 0) (hw : hostWrite Config.prau off v s = .next t) : Inv t := by
  rw [hostWrite] at hw
  split at hw
  · exact submit_keeps_inv h hleaf hw
  · split at hw
    · cases hw
      rw [State.writeCtrl]
      split
      · exact inv_applyReset s
      · exact h
    · split at hw
      · cases hw
        exact h
      · cases hw
        exact h.writeStorage hal v

theorem perform_keeps_inv {op : HostOp} {s t : State} (h : Inv s) (hleaf : s.leaf = none)
    (hp : perform Config.prau op s = .next t) : Inv t := by
  cases op with
  | read off =>
    simp only [perform] at hp
    split at hp
    · cases hp
      exact h.setRdata _
    · cases hp
  | write off v =>
    simp only [perform] at hp
    split at hp
    · next hal => exact hostWrite_keeps_inv h hleaf (by simpa [aligned] using hal) hp
    · cases hp
  | rst =>
    cases hp
    exact inv_applyReset s
  | idle =>
    cases hp
    exact h

theorem ticked_next {o : Host.Outcome State Fault Refusal} {t : State} (h : ticked o = .next t) :
    ∃ u, o = .next u ∧ t = u.tick := by
  cases o with
  | next u =>
    cases h
    exact ⟨u, rfl, rfl⟩
  | fault r => cases h
  | refused r => cases h

/-- Settles O45: a step makes a move of the host, resets, goes on with a draw or is idle, and each of these keeps the
invariant. -/
theorem stepKeepsInvariant : Obligations.StepKeepsInvariant := by
  intro s t h hstep
  rw [step_eq_stepIn] at hstep
  cases hleaf : s.leaf with
  | none =>
    cases hinputs : s.inputs with
    | nil =>
      rw [stepIn_idle _ hleaf hinputs] at hstep
      cases hstep
      exact (h.setRdata none).tick
    | cons op rest =>
      rw [stepIn_move _ hleaf hinputs] at hstep
      obtain ⟨u, hu, rfl⟩ := ticked_next hstep
      exact (perform_keeps_inv ((h.setInputs rest).setRdata none) hleaf hu).tick
  | some run =>
    by_cases hrst : s.inputs.head? = some .rst
    · obtain ⟨rest, hinputs⟩ := List.head?_eq_some_iff.mp hrst
      rw [stepIn_reset _ hinputs] at hstep
      cases hstep
      exact (inv_applyReset _).tick
    · rw [stepIn_running _ hleaf hrst] at hstep
      cases hstep
      refine (((h.setInputs _).setRdata none).leafAdvance ?_ _ run).tick
      exact h.running (by simp [hleaf])

end Sys2Proof.Safety
end

section
/-! Storage seen through words and bytes (R22, R55): a run of bytes is a number in base 256, so its words are slices of it, and a
register that packs 4-bit codes (R34) is a number in base 16. -/

namespace Sys2Proof.Machine

theorem leNat_eq_ofDigits (bs : List Byte) : leNat bs = Nat.ofDigits 256 (bs.map BitVec.toNat) := by
  induction bs with
  | nil => rfl
  | cons b bs ih => rw [leNat, ih, List.map_cons, Nat.ofDigits_cons]

theorem forall_mem_map_toNat_lt (bs : List Byte) : ∀ d ∈ bs.map BitVec.toNat, d < 256 := by
  simp only [List.forall_mem_map]
  exact fun b _ => b.isLt

theorem leNat_lt (bs : List Byte) : leNat bs < 256 ^ bs.length := by
  rw [leNat_eq_ofDigits, ← List.length_map BitVec.toNat]
  exact Nat.ofDigits_lt_base_pow_length (by decide) (forall_mem_map_toNat_lt bs)

/-- Bytes `i` to `i + k - 1` of a number stand for the number those bytes give alone. -/
theorem leNat_slice (bs : List Byte) (i k : Nat) : leNat bs / 256 ^ i % 256 ^ k = leNat ((bs.drop i).take k) := by
  rw [leNat_eq_ofDigits, Nat.ofDigits_div_pow_eq_ofDigits_drop i (by decide) _ (forall_mem_map_toNat_lt bs), ← List.map_drop,
    Nat.ofDigits_mod_pow_eq_ofDigits_take k (by decide) _ (forall_mem_map_toNat_lt _), ← List.map_take, ← leNat_eq_ofDigits]

theorem leBytes_getElem (k v i : Nat) (h : i < (leBytes k v).length) :
    (leBytes k v)[i] = BitVec.ofNat 8 (v / 256 ^ i) := by
  induction k generalizing v i with
  | zero => simp [leBytes] at h
  | succ k ih =>
    cases i with
    | zero => simp [leBytes]
    | succ i =>
      simp only [leBytes, List.getElem_cons_succ, ih]
      rw [Nat.div_div_eq_div_mul, ← Nat.pow_succ']

/-- A part of a run of bytes is the run at its own offset. -/
theorem State.bytesAt_slice (s : State) (a : Nat) {i k n : Nat} (h : i + k ≤ n) :
    ((s.bytesAt a n).drop i).take k = s.bytesAt (a + i) k := by
  apply List.ext_getElem
  · simp only [List.length_take, List.length_drop, State.bytesAt_length]
    omega
  · intro j _ _
    simp only [State.bytesAt, List.getElem_take, List.getElem_drop, List.getElem_map, List.getElem_range, Nat.add_assoc]

theorem State.wordAt_toNat (s : State) (a : Nat) : (s.wordAt a).toNat = leNat (s.bytesAt a 4) := by
  have hlt : leNat (s.bytesAt a 4) < 2 ^ 32 := (leNat_lt _).trans_eq (by simp)
  rw [State.wordAt, BitVec.toNat_ofNat, Nat.mod_eq_of_lt hlt]

theorem State.lane_toNat (s : State) (r : Reg) (j : Nat) : (s.lane r j).toNat = leNat (s.bytesAt (laneAddr r j) 16) := by
  have hlt : leNat (s.bytesAt (laneAddr r j) 16) < 2 ^ 128 := (leNat_lt _).trans_eq (by simp)
  rw [State.lane, BitVec.toNat_ofNat, Nat.mod_eq_of_lt hlt]

/-- Word `k` of a lane stands `4k` bytes above the lane (R56). -/
theorem State.laneWord_lane (s : State) (r : Reg) (j : Nat) {k : Nat} (hk : k < 4) :
    laneWord (s.lane r j) k = s.wordAt (laneAddr r j + 4 * k) := by
  apply BitVec.eq_of_toNat_eq
  have hpow : 2 ^ (32 * k) = 256 ^ (4 * k) := by rw [show 32 * k = 8 * (4 * k) by omega, Nat.pow_mul]
  calc (laneWord (s.lane r j) k).toNat
    _ = leNat (s.bytesAt (laneAddr r j) 16) / 256 ^ (4 * k) % 2 ^ 32 := by
      rw [laneWord, BitVec.extractLsb'_toNat, State.lane_toNat, Nat.shiftRight_eq_div_pow, hpow]
    _ = leNat (s.bytesAt (laneAddr r j + 4 * k) 4) := by
      rw [show 2 ^ 32 = 256 ^ 4 from rfl, leNat_slice, s.bytesAt_slice _ (by omega)]
    _ = (s.wordAt (laneAddr r j + 4 * k)).toNat := (s.wordAt_toNat _).symm

theorem append_byte_toNat {w : Nat} (x : BitVec w) (b : Byte) : (x ++ b).toNat = 256 * x.toNat + b.toNat := by
  rw [BitVec.toNat_append, ← Nat.shiftLeft_add_eq_or_of_lt b.isLt, Nat.shiftLeft_eq]
  omega

/-- A word of storage is its four bytes, the lowest offset lowest (R55). -/
theorem State.wordAt_eq_append (s : State) (a : Nat) :
    s.wordAt a = s.byteAt (a + 3) ++ s.byteAt (a + 2) ++ s.byteAt (a + 1) ++ s.byteAt a := by
  apply BitVec.eq_of_toNat_eq
  have hbytes : s.bytesAt a 4 = [s.byteAt a, s.byteAt (a + 1), s.byteAt (a + 2), s.byteAt (a + 3)] := rfl
  rw [s.wordAt_toNat, hbytes, append_byte_toNat, append_byte_toNat, append_byte_toNat]
  simp only [leNat]
  omega

/-- A stored word reads back. -/
theorem State.store_wordAt (s : State) (a : Nat) (v : Word) : (s.store a (leBytes 4 v.toNat)).wordAt a = v := by
  have hbytes : (s.store a (leBytes 4 v.toNat)).bytesAt a 4 = leBytes 4 v.toNat :=
    s.store_bytesAt_inside a 0 4 (leBytes 4 v.toNat) (by simp)
  apply BitVec.eq_of_toNat_eq
  rw [State.wordAt_toNat, hbytes, leNat_leBytes]
  exact Nat.mod_eq_of_lt v.isLt

/-- The bytes of a stored word, lowest first. -/
theorem State.store_word_byteAt (s : State) (a : Nat) (v : Word) {i : Nat} (hi : i < 4) :
    (s.store a (leBytes 4 v.toNat)).byteAt (a + i) = v.extractLsb' (8 * i) 8 := by
  rw [s.store_byteAt_inside a i _ (by rwa [leBytes_length]), leBytes_getElem]
  apply BitVec.eq_of_toNat_eq
  rw [BitVec.toNat_ofNat, BitVec.extractLsb'_toNat, Nat.shiftRight_eq_div_pow, Nat.pow_mul]

theorem packCodes_eq_ofDigits (cs : List Nat) : packCodes cs = Nat.ofDigits 16 cs := by
  induction cs with
  | nil => rfl
  | cons c cs ih => rw [packCodes, ih, Nat.ofDigits_cons]

/-- Each code stands at its own place. -/
theorem packCodes_digit {cs : List Nat} (h : ∀ c ∈ cs, c < 16) {i : Nat} (hi : i < cs.length) :
    packCodes cs / 16 ^ i % 16 = cs[i] := by
  rw [packCodes_eq_ofDigits, Nat.ofDigits_div_pow_eq_ofDigits_drop i (by decide) cs h, List.drop_eq_getElem_cons hi,
    Nat.ofDigits_cons, Nat.add_mul_mod_self_left, Nat.mod_eq_of_lt (h _ (List.getElem_mem hi))]

/-- Bits `4r+3 : 4r` of `TAGS` are the code of `tag[r]` (R34). -/
theorem State.tagsWord_digit (s : State) (r : Reg) : s.tagsWord.toNat / 16 ^ r.val % 16 = s.tags[r].code := by
  have hcodes : ∀ c ∈ s.tags.toList.map Tag.code, c < 16 := by
    simp only [List.forall_mem_map]
    intro t _
    cases t <;> decide
  have hlt : packCodes (s.tags.toList.map Tag.code) < 2 ^ 32 := by
    have h := Nat.ofDigits_lt_base_pow_length (by decide) hcodes
    rwa [← packCodes_eq_ofDigits, List.length_map, Vector.length_toList] at h
  rw [State.tagsWord, BitVec.toNat_ofNat, Nat.mod_eq_of_lt hlt, packCodes_digit hcodes (by simp)]
  simp

end Sys2Proof.Machine
end

section
/-! The host's moves on the register space (R50 to R61): what one step makes of an aligned read or write, and the registers by
their offsets. -/

namespace Sys2Proof.Machine

theorem aligned_iff {off : Offset} : aligned off = true ↔ off.toNat % 4 = 0 := by simp [aligned]

/-- No command runs and the host writes to an aligned offset: the step is that write (R53). -/
theorem step_write {s : State} {off : Offset} {v : Word} {rest : List HostOp} (hl : s.leaf = none)
    (hi : s.inputs = .write off v :: rest) (hal : off.toNat % 4 = 0) :
    step s = ticked (hostWrite Config.prau off v ((s.setInputs rest).setRdata none)) := by
  rw [step_eq_stepIn, stepIn_move _ hl hi, perform, if_pos (aligned_iff.mpr hal)]

/-- No command runs and the host reads an aligned offset: the step puts the word on the bus (R52). -/
theorem step_read {s : State} {off : Offset} {rest : List HostOp} (hl : s.leaf = none) (hi : s.inputs = .read off :: rest)
    (hal : off.toNat % 4 = 0) :
    step s = .next { s with inputs := rest, rdata := some (s.readOffset off), now := s.now + 1 } := by
  rw [step_eq_stepIn, stepIn_move _ hl hi, perform, if_pos (aligned_iff.mpr hal)]
  rfl

/-! Reads. -/

/-- What an offset reads is what its number reads. -/
theorem State.readOffset_of_toNat (s : State) {off : Offset} {a : Nat} (h : off.toNat = a) :
    s.readOffset off = s.readOffset (BitVec.ofNat 18 a) := by
  rw [← h, BitVec.ofNat_toNat, BitVec.setWidth_eq]

theorem faultCode_le (f : Option PrauFault) : faultCode f ≤ 6 := by
  rcases f with _ | f
  · decide
  · cases f <;> decide

theorem resCode_le (c : Res) : resCode c ≤ 2 := by cases c <;> decide

theorem State.statusWord_toNat (s : State) : s.statusWord.toNat = faultCode s.fault + 16 * resCode s.res := by
  have hfault := faultCode_le s.fault
  have hres := resCode_le s.res
  rw [State.statusWord, BitVec.toNat_ofNat]
  omega

/-- Only `STATUS` and `FCMD` show a fault (R60). -/
theorem State.readOffset_without_fault (s : State) {off : Offset} (hstatus : off ≠ 0x00004) (hfcmd : off ≠ 0x00008) :
    s.readOffset off = ({ s with fault := none, fcmd := 0 } : State).readOffset off := by
  rw [ne_eq, ← BitVec.toNat_inj] at hstatus hfcmd
  generalize ha : off.toNat = a at hstatus hfcmd
  unfold State.readOffset
  rw [ha]
  split
  case h_1 => exact absurd rfl hstatus
  case h_2 => exact absurd rfl hfcmd
  all_goals rfl

/-! Writes. -/

/-- An unfaulted machine stores a write to any offset but those of `CMD` and `CTRL`. -/
theorem hostWrite_eq_writeStorage (cfg : Configuration) {off : Offset} (v : Word) {s : State} (h : s.fault = none)
    (hcmd : off.toNat ≠ 0x00) (hctrl : off.toNat ≠ 0x0C) : hostWrite cfg off v s = .next (s.writeStorage off v) :=
  hostWrite_stored cfg v h (fun he => hcmd (he ▸ rfl)) fun he => hctrl (he ▸ rfl)

/-- A write to the `BB` window stores the word (R57). -/
theorem State.writeStorage_bb (s : State) {off : Offset} (v : Word) (h : inBB off.toNat = true) :
    s.writeStorage off v = s.store off.toNat (leBytes 4 v.toNat) := by
  have hbounds := inBB_iff.mp h
  rw [s.writeStorage_above v (by omega), if_pos h]

/-- A write to the polynomial window stores the word and makes the register `RAW` (R56). -/
theorem State.writeStorage_poly (s : State) {off : Offset} (v : Word) (h : inPoly off.toNat = true) :
    s.writeStorage off v = (s.store off.toNat (leBytes 4 v.toNat)).setTag (polyReg off.toNat) .raw := by
  have hbounds := inPoly_iff.mp h
  have hbb : ¬ inBB off.toNat = true := by rw [inBB_iff]; omega
  rw [s.writeStorage_above v (by omega), if_neg hbb, if_pos h]

/-- An offset of the polynomial window belongs to the register whose lanes it lies in. -/
theorem polyReg_eq {a : Nat} {r : Reg} (hlo : laneAddr r 0 ≤ a) (hhi : a < laneAddr r 1024) : polyReg a = r := by
  apply Fin.ext
  simp only [laneAddr, polyReg, Fin.val_ofNat] at hlo hhi ⊢
  omega

/-- The offsets whose writes are ignored (R61): the read-only registers, and what is reserved. -/
def IgnoresWrites (a : Nat) : Prop :=
  a ∈ [0x04, 0x08, 0x10, 0x18, 0x20, 0x24] ∨ 0x40 ≤ a ∧ inBB a = false ∧ inPoly a = false

theorem State.writeStorage_ignored (s : State) {off : Offset} (v : Word) (h : IgnoresWrites off.toNat) :
    s.writeStorage off v = s := by
  rcases h with hlow | ⟨hlo, hbb, hpoly⟩
  · simp only [List.mem_cons, List.not_mem_nil, or_false] at hlow
    unfold State.writeStorage
    rcases hlow with h | h | h | h | h | h <;> rw [h] <;> rfl
  · rw [s.writeStorage_above v hlo, hbb, hpoly]
    rfl

/-- Such a write changes nothing and raises no fault, in a faulted machine or not. -/
theorem hostWrite_ignored (cfg : Configuration) (s : State) {off : Offset} (v : Word) (h : IgnoresWrites off.toNat) :
    hostWrite cfg off v s = .next s := by
  have hcmd : off.toNat ≠ 0x00 := fun h0 => by simp [IgnoresWrites, h0] at h
  have hctrl : off.toNat ≠ 0x0C := fun h0 => by simp [IgnoresWrites, h0] at h
  by_cases hfault : s.fault = none
  · rw [hostWrite_eq_writeStorage cfg v hfault hcmd hctrl, s.writeStorage_ignored v h]
  · exact hostWrite_dropped cfg v hfault fun he => hctrl (he ▸ rfl)

/-! A running draw. -/

/-- The attempt of this hardware takes the larger of the two deviations (R161, R162). -/
theorem State.attempt_prau (s : State) : s.attempt Config.prau =
    Config.leafAttempt s.mu (if scaled s.sigmin ≤ scaled s.sigleaf then s.sigleaf else s.sigmin) := by
  simp only [State.attempt, leafSigma, fle, decide_eq_true_eq, Config.prau_leafAttempt]

/-- A draw uses up no move of the host. -/
theorem State.leafAdvance_inputs (s : State) (cfg : Configuration) (run : LeafRun) :
    (s.leafAdvance cfg run).inputs = s.inputs := by
  obtain ⟨_, _, _, _, _, _, _, h⟩ := s.leafSettle_frame _
  rw [State.leafAdvance, h]

theorem fitsInt32_iff {z : Int} : fitsInt32 z = true ↔ -2 ^ 31 ≤ z ∧ z ≤ 2 ^ 31 - 1 := by
  rw [fitsInt32, Bool.and_eq_true, decide_eq_true_iff, decide_eq_true_iff]

/-- A draw that has not ended stores its place, and no register changes. -/
theorem State.leafSettle_pending (s : State) (rej : Nat) (taken : List Byte) (pos : Nat) :
    s.leafSettle (.pending rej taken pos) = { s with leaf := some ⟨rej, taken⟩, rngPos := pos } := rfl

/-- An accepted integer is committed when it fits 32 bits, and raises `RANGE` otherwise (R163, R208). -/
theorem State.leafSettle_accepted (s : State) (z : Int) (rej pos : Nat) : s.leafSettle (.accepted z rej pos) =
    if -2 ^ 31 ≤ z ∧ z ≤ 2 ^ 31 - 1 then
      { s with sz := BitVec.ofInt 32 z, rejcnt := s.rejcnt + BitVec.ofNat 32 rej, res := .ok, leaf := none, rngPos := pos }
    else { s with fault := some .range, fcmd := encode .samplez, leaf := none, rngPos := pos } := by
  simp only [State.leafSettle, fitsInt32_iff]
  rfl

end Sys2Proof.Machine

namespace Sys2Proof.Safety

open Sys2Proof.Machine

/-- Settles O5: the laws of one step, for a command, an aligned write, no move, and an idle move. -/
theorem stepRunsDecodedCommand : Obligations.StepRunsDecodedCommand := by
  intro s rest hleaf
  refine ⟨fun c i hinputs hdecode => step_command hleaf hinputs hdecode, fun off v hinputs hal => step_write hleaf hinputs hal,
    fun hinputs => stepIn_idle Config.prau hleaf hinputs, fun hinputs => stepIn_move Config.prau hleaf hinputs⟩

/-- Settles O7: a faulted machine drops every write but one to `CTRL`, and a read looks at the fault only for `STATUS` and
`FCMD`. -/
theorem faultedMachineIgnoresWrites : Obligations.FaultedMachineIgnoresWrites := by
  intro s f off rest hleaf hfault hal
  refine ⟨fun v hctrl hinputs => ?_, fun hinputs => ⟨step_read hleaf hinputs hal, s.readOffset_without_fault⟩⟩
  rw [step_write hleaf hinputs hal, hostWrite_dropped _ _ (by simp [hfault]) hctrl]
  rfl

/-- Settles O9: the offset is that of the lane's word, and a write stores the word there and makes the register `RAW`. -/
theorem laneWindowHoldsWords : Obligations.LaneWindowHoldsWords := by
  intro cfg s r j k off v hj hk hoff
  have haddr : off.toNat = laneAddr r j + 4 * k := by
    rw [hoff, laneAddr]
    omega
  have hpoly : inPoly off.toNat = true := inPoly_iff.mpr (by omega)
  have hreg : polyReg off.toNat = r := polyReg_eq (by rw [laneAddr]; omega) (by rw [laneAddr]; omega)
  refine ⟨by rw [s.readOffset_window (.inr hpoly), s.laneWord_lane r j hk, haddr], fun hfault =>
    ⟨(s.store off.toNat (leBytes 4 v.toNat)).setTag r .raw, ?_, ⟨_, rfl⟩, ?_, fun a ha => ?_⟩⟩
  · rw [hostWrite_eq_writeStorage cfg v hfault (by omega) (by omega), s.writeStorage_poly v hpoly, hreg]
  · rw [State.readOffset_window _ (.inr hpoly)]
    exact s.store_wordAt off.toNat v
  · exact s.store_byteAt_outside off.toNat a _ (by rwa [leBytes_length])

/-- Settles O10: a word of the window is its four bytes, and a write stores four bytes there. -/
theorem byteWindowPacksFourBytes : Obligations.ByteWindowPacksFourBytes := by
  intro cfg s m off v hm hoff
  have hbb : inBB off.toNat = true := inBB_iff.mpr (by omega)
  refine ⟨by rw [s.readOffset_window (.inl hbb), hoff, s.wordAt_eq_append]; rfl, fun hfault =>
    ⟨s.store off.toNat (leBytes 4 v.toNat), ?_, ⟨_, rfl⟩, fun i hi => ?_, fun a ha => ?_⟩⟩
  · rw [hostWrite_eq_writeStorage cfg v hfault (by omega) (by omega), s.writeStorage_bb v hbb]
  · rw [← Nat.add_assoc, ← hoff]
    exact s.store_word_byteAt off.toNat v hi
  · exact s.store_byteAt_outside off.toNat a _ (by rwa [leBytes_length])

/-- Settles O11: none of these offsets is `CMD` or `CTRL`, so an unfaulted machine stores the word in the register. -/
theorem registerWritesTakeTheValue : Obligations.RegisterWritesTakeTheValue := by
  intro cfg s v hfault
  have hblen : s.writeStorage 0x00014 v = { s with blen := v.extractLsb' 0 12 } := by
    rw [← BitVec.setWidth_eq_extractLsb' (by decide)]
    rfl
  refine ⟨hblen ▸ hostWrite_stored cfg v hfault (by decide) (by decide), ?_, ?_, ?_, ?_, ?_, ?_, ?_⟩
  all_goals exact hostWrite_stored cfg v hfault (by decide) (by decide)

/-- Settles O12: what is reserved lies in no register and in no window, and the read-only registers store nothing. -/
theorem reservedOffsetsAreInert : Obligations.ReservedOffsetsAreInert := by
  intro cfg s off v
  refine ⟨fun hreserved => ?_, fun hwriteOnly => ?_, fun hreadOnly => hostWrite_ignored cfg s v (.inl (by simp; omega))⟩
  · by_cases hlow : off.toNat = 0x24
    · exact ⟨s.readOffset_of_toNat hlow, hostWrite_ignored cfg s v (.inl (by simp [hlow]))⟩
    · have hlo : 0x40 ≤ off.toNat := by omega
      have hbb : inBB off.toNat = false := by rw [Bool.eq_false_iff, ne_eq, inBB_iff]; omega
      have hpoly : inPoly off.toNat = false := by rw [Bool.eq_false_iff, ne_eq, inPoly_iff]; omega
      exact ⟨s.readOffset_reserved hlo hbb hpoly, hostWrite_ignored cfg s v (.inr ⟨hlo, hbb, hpoly⟩)⟩
  · rcases hwriteOnly with h | h <;> exact s.readOffset_of_toNat h

/-- Settles O13: the step is the read, and each register's offset reads the register. -/
theorem readsReturnRegisters : Obligations.ReadsReturnRegisters := by
  intro s off rest hleaf hal hinputs
  have hread : ∀ {a : Nat}, off.toNat = a → s.readOffset off = s.readOffset (BitVec.ofNat 18 a) := s.readOffset_of_toNat
  refine ⟨step_read hleaf hinputs hal, fun h => ?_, hread, fun h => ?_, fun h => ?_, hread, hread, fun h r => ?_,
    hread, hread, hread, hread, hread, hread⟩
  · rw [hread h]
    exact s.statusWord_toNat
  · rw [hread h]
    exact BitVec.toNat_setWidth_of_le (by decide)
  · rw [hread h]
    exact BitVec.toNat_setWidth_of_le (by decide)
  · rw [hread h]
    exact s.tagsWord_digit r

/-- Settles O17: the step goes on with the draw, which leaves the host's moves alone; what it stores is what the loop's outcome
settles. -/
theorem runningCommandBlocksBus : Obligations.RunningCommandBlocksBus := by
  rintro s run att hleaf hrst rfl
  rw [← s.attempt_prau]
  have hadvance : ∀ ops o, leafLoop (s.attempt Config.prau) Config.rngByte (Config.rngDelivers s.now)
      (awaiting (s.attempt Config.prau) run.taken) run.taken run.rej s.rngPos = o →
      ((s.setInputs ops).setRdata none).leafAdvance Config.prau run = ((s.setInputs ops).setRdata none).leafSettle o :=
    fun _ _ hloop => congrArg _ hloop
  refine ⟨_, stepIn_running Config.prau hleaf hrst, ?_⟩
  simp only [State.tick_inputs, State.leafAdvance_inputs, State.setRdata_inputs, State.setInputs_inputs]
  refine ⟨fun hidle => if_neg hidle, fun hidle => if_pos hidle, fun rej taken pos hloop => ?_, fun z rej pos hloop => ?_⟩
  · rw [hadvance _ _ hloop, State.leafSettle_pending]
    rfl
  · rw [hadvance _ _ hloop, State.leafSettle_accepted]
    split <;> rfl

end Sys2Proof.Safety
end

section
/-! The command word (R70 to R76): which commands each format reads from a word, in terms of the word's fields, and what a mask of
the opcode table says of the fields. -/

namespace Sys2Proof

variable {op rd rs1 rs2 imm : Nat} {c : Word} {i : Instr}

/-! Words and their fields. -/

/-- The operand fields of the word, the immediate as a number. -/
def HasFields (c : Word) (rd rs1 rs2 imm : Nat) : Prop :=
  rdField c = rd ∧ rs1Field c = rs1 ∧ rs2Field c = rs2 ∧ (immField c).toNat = imm

theorem hasFields_wordOf (hop : op < 256) (hrd : rd < 16) (hrs1 : rs1 < 16) (hrs2 : rs2 < 16) (himm : imm < 4096) :
    HasFields (wordOf op rd rs1 rs2 imm) rd rs1 rs2 imm := by
  refine ⟨rdField_wordOf hop hrd hrs1 hrs2 himm, rs1Field_wordOf hop hrd hrs1 hrs2 himm,
    rs2Field_wordOf hop hrd hrs1 hrs2 himm, ?_⟩
  rw [immField_wordOf hop hrd hrs1 hrs2 himm, BitVec.toNat_ofNat, Nat.mod_eq_of_lt himm]

theorem HasFields.imm_eq (h : HasFields c rd rs1 rs2 imm) : (immField c).toNat = imm := by
  obtain ⟨-, -, -, himm⟩ := h
  exact himm

/-- The fields cover the word: it is put together from them. -/
theorem HasFields.wordOf_eq (h : HasFields c rd rs1 rs2 imm) (hop : opField c = op) : wordOf op rd rs1 rs2 imm = c := by
  obtain ⟨rfl, rfl, rfl, rfl⟩ := h
  subst hop
  apply BitVec.eq_of_toNat_eq
  rw [wordOf, BitVec.toNat_ofNat, opField_eq, rdField_eq, rs1Field_eq, rs2Field_eq, immField_toNat]
  have := c.isLt
  omega

/-- R76, for every command: bits 31:24 of its word are its row's `op`. -/
theorem opField_encode : ∀ i : Instr, opField (encode i) = opcodeOf i
  | .nop => Laws.OpcodeRow.nop
  | .cfg imm => Laws.OpcodeRow.cfg imm
  | .tag rd t => Laws.OpcodeRow.tag rd t
  | .mov rd rs1 => Laws.OpcodeRow.mov rd rs1
  | .ntt rd rs1 => Laws.OpcodeRow.ntt rd rs1
  | .intt rd rs1 => Laws.OpcodeRow.intt rd rs1
  | .addq rd rs1 rs2 => Laws.OpcodeRow.addq rd rs1 rs2
  | .subq rd rs1 rs2 => Laws.OpcodeRow.subq rd rs1 rs2
  | .negq rd rs1 => Laws.OpcodeRow.negq rd rs1
  | .muln rd rs1 rs2 => Laws.OpcodeRow.muln rd rs1 rs2
  | .divn rd rs1 rs2 => Laws.OpcodeRow.divn rd rs1 rs2
  | .mulq rd rs1 rs2 => Laws.OpcodeRow.mulq rd rs1 rs2
  | .divq rd rs1 rs2 => Laws.OpcodeRow.divq rd rs1 rs2
  | .reduce rd rs1 => Laws.OpcodeRow.reduce rd rs1
  | .center rd rs1 => Laws.OpcodeRow.center rd rs1
  | .fft rd rs1 => Laws.OpcodeRow.fft rd rs1
  | .ifft rd rs1 => Laws.OpcodeRow.ifft rd rs1
  | .addf rd rs1 rs2 => Laws.OpcodeRow.addf rd rs1 rs2
  | .subf rd rs1 rs2 => Laws.OpcodeRow.subf rd rs1 rs2
  | .negf rd rs1 => Laws.OpcodeRow.negf rd rs1
  | .mulf rd rs1 rs2 => Laws.OpcodeRow.mulf rd rs1 rs2
  | .round rd rs1 => Laws.OpcodeRow.round rd rs1
  | .samplez => Laws.OpcodeRow.samplez
  | .compress rs1 imm => Laws.OpcodeRow.compress rs1 imm
  | .decompress rd imm => Laws.OpcodeRow.decompress rd imm

/-! What the formats read (R71 to R73): a word that has these fields, and no other. -/

theorem bind_eq_ok {ε α β : Type} {x : Except ε α} {f : α → Except ε β} {b : β} :
    x >>= f = .ok b ↔ ∃ a, x = .ok a ∧ f a = .ok b := by
  cases x <;> simp [bind, Except.bind]

theorem pure_eq_ok {ε α : Type} {a b : α} : (pure a : Except ε α) = .ok b ↔ a = b := by simp [pure, Except.pure]

theorem mustBeZero_nil_eq_ok {u : Unit} : mustBeZero [] = .ok u ↔ True := by simp [mustBeZero]

theorem mustBeZero_cons_eq_ok {f : Nat} {fs : List Nat} {u : Unit} :
    mustBeZero (f :: fs) = .ok u ↔ f = 0 ∧ mustBeZero fs = .ok u := by simp [mustBeZero]

theorem regOf_eq_ok {f : Nat} {r : Reg} : regOf f = .ok r ↔ f = r.val := by
  unfold regOf
  split <;> simp [Fin.ext_iff]
  omega

theorem tagOf_eq_ok {imm : BitVec 12} {t : Tag} : tagOf imm = .ok t ↔ t.typed = true ∧ imm.toNat = t.code := by
  unfold tagOf
  split <;> cases t <;> simp_all [Tag.typed, Tag.code]

theorem formatN_eq_ok {j : Instr} : formatN c j = .ok i ↔ HasFields c 0 0 0 0 ∧ j = i := by
  simp only [formatN, bind_eq_ok, pure_eq_ok, mustBeZero_nil_eq_ok, mustBeZero_cons_eq_ok]
  grind [HasFields]

theorem formatI_eq_ok {mk : BitVec 12 → Instr} :
    formatI c mk = .ok i ↔ ∃ imm : BitVec 12, HasFields c 0 0 0 imm.toNat ∧ mk imm = i := by
  simp only [formatI, bind_eq_ok, pure_eq_ok, mustBeZero_nil_eq_ok, mustBeZero_cons_eq_ok]
  grind [HasFields, BitVec.toNat_inj]

theorem formatDI_eq_ok {mk : Reg → BitVec 12 → Except Illegal Instr} :
    formatDI c mk = .ok i ↔ ∃ (rd : Reg) (imm : BitVec 12), HasFields c rd 0 0 imm.toNat ∧ mk rd imm = .ok i := by
  simp only [formatDI, bind_eq_ok, mustBeZero_nil_eq_ok, mustBeZero_cons_eq_ok, regOf_eq_ok]
  grind [HasFields, BitVec.toNat_inj]

theorem formatSI_eq_ok {mk : Reg → BitVec 12 → Instr} :
    formatSI c mk = .ok i ↔ ∃ (rs1 : Reg) (imm : BitVec 12), HasFields c 0 rs1 0 imm.toNat ∧ mk rs1 imm = i := by
  simp only [formatSI, bind_eq_ok, pure_eq_ok, mustBeZero_nil_eq_ok, mustBeZero_cons_eq_ok, regOf_eq_ok]
  grind [HasFields, BitVec.toNat_inj]

theorem formatDS_eq_ok {mk : Reg → Reg → Instr} :
    formatDS c mk = .ok i ↔ ∃ rd rs1 : Reg, HasFields c rd rs1 0 0 ∧ mk rd rs1 = i := by
  simp only [formatDS, bind_eq_ok, pure_eq_ok, mustBeZero_nil_eq_ok, mustBeZero_cons_eq_ok, regOf_eq_ok]
  grind [HasFields]

theorem formatDSS_eq_ok {mk : Reg → Reg → Reg → Instr} :
    formatDSS c mk = .ok i ↔ ∃ rd rs1 rs2 : Reg, HasFields c rd rs1 rs2 0 ∧ mk rd rs1 rs2 = i := by
  simp only [formatDSS, bind_eq_ok, pure_eq_ok, mustBeZero_nil_eq_ok, mustBeZero_cons_eq_ok, regOf_eq_ok]
  grind [HasFields]

/-- What row 0x02 reads: `TAG`'s immediate is the code of a tag that can be set (R73). -/
theorem formatDI_tag_eq_ok : formatDI c (fun rd imm => do return .tag rd (← tagOf imm)) = .ok i ↔
    ∃ (rd : Reg) (t : Tag), HasFields c rd 0 0 t.code ∧ t.typed = true ∧ .tag rd t = i := by
  simp only [formatDI_eq_ok, bind_eq_ok, pure_eq_ok, tagOf_eq_ok]
  constructor
  · rintro ⟨rd, imm, hfields, t, ⟨htyped, himm⟩, hi⟩
    exact ⟨rd, t, himm ▸ hfields, htyped, hi⟩
  · rintro ⟨rd, t, hfields, htyped, hi⟩
    exact ⟨rd, immField c, hfields.imm_eq ▸ hfields, t, ⟨htyped, hfields.imm_eq⟩, hi⟩

/-! Masks (R75). -/

/-- A mask of the bits from `k` up leaves nothing of a number below `2 ^ k`, and only of such a number. -/
theorem and_high_bits_eq_zero_iff {x n k : Nat} (hx : x < 2 ^ n) (hk : k ≤ n) : x &&& (2 ^ n - 2 ^ k) = 0 ↔ x < 2 ^ k := by
  obtain ⟨j, rfl⟩ := Nat.exists_eq_add_of_le hk
  have hmask : 2 ^ (k + j) - 2 ^ k = 2 ^ k * (2 ^ j - 1) := by rw [Nat.pow_add, Nat.mul_sub, Nat.mul_one]
  have hlow : (x &&& 2 ^ k * (2 ^ j - 1)) % 2 ^ k = 0 := by simp [Nat.and_mod_two_pow]
  have hhigh : (x &&& 2 ^ k * (2 ^ j - 1)) / 2 ^ k = x / 2 ^ k := by
    have hlt : x / 2 ^ k < 2 ^ j := Nat.div_lt_of_lt_mul (Nat.pow_add .. ▸ hx)
    rw [Nat.and_div_two_pow, Nat.mul_div_cancel_left _ (Nat.two_pow_pos k), Nat.and_two_pow_sub_one_eq_mod,
      Nat.mod_eq_of_lt hlt]
  rw [hmask, ← Nat.div_eq_zero_iff_lt (Nat.two_pow_pos k), ← hhigh]
  refine ⟨fun h => by rw [h, Nat.zero_div], fun h => ?_⟩
  rw [← Nat.div_add_mod (x &&& _) (2 ^ k), h, hlow, Nat.mul_zero]

/-- A word is determined by its fields. -/
theorem word_eq_iff {d : Word} :
    c = d ↔ opField c = opField d ∧ HasFields c (rdField d) (rs1Field d) (rs2Field d) (immField d).toNat := by
  refine ⟨fun h => h ▸ ⟨rfl, rfl, rfl, rfl, rfl⟩, fun ⟨hop, hfields⟩ => ?_⟩
  rw [← hfields.wordOf_eq hop]
  exact HasFields.wordOf_eq ⟨rfl, rfl, rfl, rfl⟩ rfl

theorem shiftLeft_eq_wordOf (op : Nat) : BitVec.ofNat 32 op <<< 24 = wordOf op 0 0 0 0 := by
  apply BitVec.eq_of_toNat_eq
  simp [wordOf, Nat.shiftLeft_eq]

theorem opField_and (c m : Word) : opField (c &&& m) = opField c &&& opField m := by
  rw [opField, BitVec.extractLsb'_and, BitVec.toNat_and, ← opField, ← opField]

theorem hasFields_and_zero_iff (c m : Word) : HasFields (c &&& m) 0 0 0 0 ↔ rdField c &&& rdField m = 0 ∧
   rs1Field c &&& rs1Field m = 0 ∧ rs2Field c &&& rs2Field m = 0 ∧ (immField c).toNat &&& (immField m).toNat = 0 := by
  simp only [HasFields, rdField, rs1Field, rs2Field, immField, BitVec.extractLsb'_and, BitVec.toNat_and]

/-- A mask that covers the `op` field leaves the `op` number alone when that is the word's and no operand bit is left. -/
theorem and_mask_eq_iff {m : Word} (hop : op < 256) (hm : opField m = 255) :
    c &&& m = BitVec.ofNat 32 op <<< 24 ↔ opField c = op ∧ HasFields (c &&& m) 0 0 0 0 := by
  have hc : opField c < 2 ^ 8 := BitVec.isLt _
  obtain ⟨hrd, hrs1, hrs2, himm⟩ := hasFields_wordOf hop (rd := 0) (rs1 := 0) (rs2 := 0) (imm := 0)
    (by decide) (by decide) (by decide) (by decide)
  rw [shiftLeft_eq_wordOf, word_eq_iff, hrd, hrs1, hrs2, himm, opField_and, hm,
    opField_wordOf hop (by decide) (by decide) (by decide) (by decide), Nat.and_two_pow_sub_one_of_lt_two_pow hc]

/-- Each operand field is below its bound. -/
def FieldsBelow (c : Word) (rd rs1 rs2 imm : Nat) : Prop :=
  rdField c < rd ∧ rs1Field c < rs1 ∧ rs2Field c < rs2 ∧ (immField c).toNat < imm

theorem HasFields.below (h : HasFields c rd rs1 rs2 imm) {bd b1 b2 bi : Nat} (hrd : rd < bd) (hrs1 : rs1 < b1)
    (hrs2 : rs2 < b2) (himm : imm < bi) : FieldsBelow c bd b1 b2 bi := by
  obtain ⟨rfl, rfl, rfl, rfl⟩ := h
  exact ⟨hrd, hrs1, hrs2, himm⟩

/-- For a word with the `op` number, a mask that covers that number and the high bits of each operand field leaves the number
alone exactly when each field is below its lowest covered bit. -/
theorem and_mask_eq_iff_fieldsBelow {m : Word} {kd k1 k2 ki : Nat} (hk : kd ≤ 4 ∧ k1 ≤ 4 ∧ k2 ≤ 4 ∧ ki ≤ 12)
    (hm : m = wordOf 255 (2 ^ 4 - 2 ^ kd) (2 ^ 4 - 2 ^ k1) (2 ^ 4 - 2 ^ k2) (2 ^ 12 - 2 ^ ki)) (hop : opField c = op) :
    c &&& m = BitVec.ofNat 32 op <<< 24 ↔ FieldsBelow c (2 ^ kd) (2 ^ k1) (2 ^ k2) (2 ^ ki) := by
  have hlt : op < 256 := hop ▸ BitVec.isLt _
  have hhigh : ∀ n k : Nat, 2 ^ n - 2 ^ k < 2 ^ n := fun n k => Nat.sub_lt (Nat.two_pow_pos n) (Nat.two_pow_pos k)
  obtain ⟨hkd, hk1, hk2, hki⟩ := hk
  have hmask : HasFields m _ _ _ _ := hm ▸ hasFields_wordOf (by decide) (hhigh 4 kd) (hhigh 4 k1) (hhigh 4 k2) (hhigh 12 ki)
  have hopm : opField m = 255 := hm ▸ opField_wordOf (by decide) (hhigh 4 kd) (hhigh 4 k1) (hhigh 4 k2) (hhigh 12 ki)
  obtain ⟨hrd, hrs1, hrs2, himm⟩ := hmask
  rw [and_mask_eq_iff hlt hopm, and_iff_right hop, hasFields_and_zero_iff, hrd, hrs1, hrs2, himm, FieldsBelow]
  exact and_congr (and_high_bits_eq_zero_iff (BitVec.isLt _) hkd) <|
    and_congr (and_high_bits_eq_zero_iff (BitVec.isLt _) hk1) <|
    and_congr (and_high_bits_eq_zero_iff (BitVec.isLt _) hk2) (and_high_bits_eq_zero_iff (BitVec.isLt _) hki)

end Sys2Proof
end

section
/-! The decoder and the encoder (R76, R77, R80), and the opcode table: each row's law is that of its format. -/

namespace Sys2Proof

/-- The decoder reads the `op` number, and the format of that row reads the operands the encoder wrote. -/
theorem decode_encode {i : Instr} (h : WellFormed i = true) : decode (encode i) = .ok i := by
  have hop := opField_encode i
  have hlt := Laws.OpcodeRow.opcode_fits i
  have hr := Laws.OpcodeRow.reg_fits
  have h0 : 0 < 16 := by decide
  rw [decode, hop]
  cases i with
  | nop | samplez => exact formatN_eq_ok.mpr ⟨hasFields_wordOf hlt h0 h0 h0 (by decide), rfl⟩
  | cfg imm => exact formatI_eq_ok.mpr ⟨imm, hasFields_wordOf hlt h0 h0 h0 imm.isLt, rfl⟩
  | tag rd t => exact formatDI_tag_eq_ok.mpr ⟨rd, t, hasFields_wordOf hlt (hr rd) h0 h0 t.code_lt, h, rfl⟩
  | compress rs1 imm => exact formatSI_eq_ok.mpr ⟨rs1, imm, hasFields_wordOf hlt h0 (hr rs1) h0 imm.isLt, rfl⟩
  | decompress rd imm => exact formatDI_eq_ok.mpr ⟨rd, imm, hasFields_wordOf hlt (hr rd) h0 h0 imm.isLt, rfl⟩
  | mov rd rs1 | ntt rd rs1 | intt rd rs1 | negq rd rs1 | reduce rd rs1 | center rd rs1 | fft rd rs1 | ifft rd rs1
  | negf rd rs1 | round rd rs1 =>
    exact formatDS_eq_ok.mpr ⟨rd, rs1, hasFields_wordOf hlt (hr rd) (hr rs1) h0 (by decide), rfl⟩
  | addq rd rs1 rs2 | subq rd rs1 rs2 | muln rd rs1 rs2 | divn rd rs1 rs2 | mulq rd rs1 rs2 | divq rd rs1 rs2
  | addf rd rs1 rs2 | subf rd rs1 rs2 | mulf rd rs1 rs2 =>
    exact formatDSS_eq_ok.mpr ⟨rd, rs1, rs2, hasFields_wordOf hlt (hr rd) (hr rs1) (hr rs2) (by decide), rfl⟩

end Sys2Proof

namespace Sys2Proof.Safety

variable {op : Nat} {c : Word} {i : Instr}

/-- What a row of the opcode table says of the result `r` of decoding a word `c` with the row's `op` number: a command that
comes out is well formed and has that word, and one comes out exactly when the word matches the row. -/
def RowLaw (row : Nat × Word) (c : Word) (r : Except Illegal Instr) : Prop :=
  (∀ i, r = .ok i → WellFormed i = true ∧ encode i = c) ∧ ((∃ i, r = .ok i) ↔ RowMatches row c)

/-- The law of a row other than `TAG`'s: the mask bounds each operand field by a power of 2, and a command comes out exactly
when the fields are below their bounds. -/
theorem rowLaw_of_fieldsBelow {m : Word} {r : Except Illegal Instr} (kd k1 k2 ki : Nat)
    (hk : kd ≤ 4 ∧ k1 ≤ 4 ∧ k2 ≤ 4 ∧ ki ≤ 12)
    (hm : m = wordOf 255 (2 ^ 4 - 2 ^ kd) (2 ^ 4 - 2 ^ k1) (2 ^ 4 - 2 ^ k2) (2 ^ 12 - 2 ^ ki)) (hop : opField c = op)
    (htag : op ≠ 2)
    (hsound : ∀ i, r = .ok i → FieldsBelow c (2 ^ kd) (2 ^ k1) (2 ^ k2) (2 ^ ki) ∧ WellFormed i = true ∧ encode i = c)
    (hcomplete : FieldsBelow c (2 ^ kd) (2 ^ k1) (2 ^ k2) (2 ^ ki) → ∃ i, r = .ok i) : RowLaw (op, m) c r := by
  have hmatch : RowMatches (op, m) c ↔ FieldsBelow c (2 ^ kd) (2 ^ k1) (2 ^ k2) (2 ^ ki) := by
    rw [RowMatches, and_mask_eq_iff_fieldsBelow hk hm hop, and_iff_left fun h => absurd h htag]
  rw [RowLaw, hmatch]
  exact ⟨fun i h => (hsound i h).2, fun ⟨i, h⟩ => (hsound i h).1, hcomplete⟩

theorem formatN_rowLaw (hop : opField c = op) (htag : op ≠ 2)
    (hi : WellFormed i = true ∧ encode i = wordOf op 0 0 0 0) : RowLaw (op, 0xFFFFFFFF#32) c (formatN c i) := by
  refine rowLaw_of_fieldsBelow 0 0 0 0 (by decide) (by decide) hop htag (fun _ h => ?_) ?_
  · obtain ⟨hfields, rfl⟩ := formatN_eq_ok.mp h
    exact ⟨hfields.below one_pos one_pos one_pos one_pos, hi.imp_right (·.trans (hfields.wordOf_eq hop))⟩
  · rintro ⟨hrd, hrs1, hrs2, himm⟩
    exact ⟨i, formatN_eq_ok.mpr ⟨⟨by omega, by omega, by omega, by omega⟩, rfl⟩⟩

theorem formatI_rowLaw {mk : BitVec 12 → Instr} (hop : opField c = op) (htag : op ≠ 2)
    (hmk : ∀ imm, WellFormed (mk imm) = true ∧ encode (mk imm) = wordOf op 0 0 0 imm.toNat) :
    RowLaw (op, 0xFFFFF000#32) c (formatI c mk) := by
  refine rowLaw_of_fieldsBelow 0 0 0 12 (by decide) (by decide) hop htag (fun i h => ?_) ?_
  · obtain ⟨imm, hfields, rfl⟩ := formatI_eq_ok.mp h
    exact ⟨hfields.below one_pos one_pos one_pos imm.isLt, (hmk imm).imp_right (·.trans (hfields.wordOf_eq hop))⟩
  · rintro ⟨hrd, hrs1, hrs2, himm⟩
    exact ⟨_, formatI_eq_ok.mpr ⟨immField c, ⟨by omega, by omega, by omega, rfl⟩, rfl⟩⟩

theorem formatDI_rowLaw {mk : Reg → BitVec 12 → Instr} (hop : opField c = op) (htag : op ≠ 2)
    (hmk : ∀ rd imm, WellFormed (mk rd imm) = true ∧ encode (mk rd imm) = wordOf op rd 0 0 imm.toNat) :
    RowLaw (op, 0xFF8FF000#32) c (formatDI c fun rd imm => .ok (mk rd imm)) := by
  refine rowLaw_of_fieldsBelow 3 0 0 12 (by decide) (by decide) hop htag (fun i h => ?_) ?_
  · obtain ⟨rd, imm, hfields, ⟨⟩⟩ := formatDI_eq_ok.mp h
    exact ⟨hfields.below rd.isLt one_pos one_pos imm.isLt, (hmk rd imm).imp_right (·.trans (hfields.wordOf_eq hop))⟩
  · rintro ⟨hrd, hrs1, hrs2, himm⟩
    exact ⟨_, formatDI_eq_ok.mpr ⟨⟨rdField c, hrd⟩, immField c, ⟨rfl, by omega, by omega, rfl⟩, rfl⟩⟩

theorem formatSI_rowLaw {mk : Reg → BitVec 12 → Instr} (hop : opField c = op) (htag : op ≠ 2)
    (hmk : ∀ rs1 imm, WellFormed (mk rs1 imm) = true ∧ encode (mk rs1 imm) = wordOf op 0 rs1 0 imm.toNat) :
    RowLaw (op, 0xFFF8F000#32) c (formatSI c mk) := by
  refine rowLaw_of_fieldsBelow 0 3 0 12 (by decide) (by decide) hop htag (fun i h => ?_) ?_
  · obtain ⟨rs1, imm, hfields, rfl⟩ := formatSI_eq_ok.mp h
    exact ⟨hfields.below one_pos rs1.isLt one_pos imm.isLt, (hmk rs1 imm).imp_right (·.trans (hfields.wordOf_eq hop))⟩
  · rintro ⟨hrd, hrs1, hrs2, himm⟩
    exact ⟨_, formatSI_eq_ok.mpr ⟨⟨rs1Field c, hrs1⟩, immField c, ⟨by omega, rfl, by omega, rfl⟩, rfl⟩⟩

theorem formatDS_rowLaw {mk : Reg → Reg → Instr} (hop : opField c = op) (htag : op ≠ 2)
    (hmk : ∀ rd rs1, WellFormed (mk rd rs1) = true ∧ encode (mk rd rs1) = wordOf op rd rs1 0 0) :
    RowLaw (op, 0xFF88FFFF#32) c (formatDS c mk) := by
  refine rowLaw_of_fieldsBelow 3 3 0 0 (by decide) (by decide) hop htag (fun i h => ?_) ?_
  · obtain ⟨rd, rs1, hfields, rfl⟩ := formatDS_eq_ok.mp h
    exact ⟨hfields.below rd.isLt rs1.isLt one_pos one_pos, (hmk rd rs1).imp_right (·.trans (hfields.wordOf_eq hop))⟩
  · rintro ⟨hrd, hrs1, hrs2, himm⟩
    exact ⟨_, formatDS_eq_ok.mpr ⟨⟨rdField c, hrd⟩, ⟨rs1Field c, hrs1⟩, ⟨rfl, rfl, by omega, by omega⟩, rfl⟩⟩

theorem formatDSS_rowLaw {mk : Reg → Reg → Reg → Instr} (hop : opField c = op) (htag : op ≠ 2)
    (hmk : ∀ rd rs1 rs2, WellFormed (mk rd rs1 rs2) = true ∧ encode (mk rd rs1 rs2) = wordOf op rd rs1 rs2 0) :
    RowLaw (op, 0xFF888FFF#32) c (formatDSS c mk) := by
  refine rowLaw_of_fieldsBelow 3 3 3 0 (by decide) (by decide) hop htag (fun i h => ?_) ?_
  · obtain ⟨rd, rs1, rs2, hfields, rfl⟩ := formatDSS_eq_ok.mp h
    exact ⟨hfields.below rd.isLt rs1.isLt rs2.isLt one_pos, (hmk rd rs1 rs2).imp_right (·.trans (hfields.wordOf_eq hop))⟩
  · rintro ⟨hrd, hrs1, hrs2, himm⟩
    exact ⟨_, formatDSS_eq_ok.mpr ⟨⟨rdField c, hrd⟩, ⟨rs1Field c, hrs1⟩, ⟨rs2Field c, hrs2⟩, ⟨rfl, rfl, rfl, by omega⟩, rfl⟩⟩

/-- The tags that `TAG` can set have the codes 1 to 5 (R73). -/
theorem exists_typed_code_iff {v : Nat} : (∃ t : Tag, t.typed = true ∧ t.code = v) ↔ 1 ≤ v ∧ v ≤ 5 := by
  constructor
  · rintro ⟨t, htyped, rfl⟩
    cases t <;> simp_all [Tag.typed, Tag.code]
  · intro h
    have hcases : v = 1 ∨ v = 2 ∨ v = 3 ∨ v = 4 ∨ v = 5 := by omega
    rcases hcases with rfl | rfl | rfl | rfl | rfl
    exacts [⟨.z, rfl, rfl⟩, ⟨.q, rfl, rfl⟩, ⟨.n, rfl, rfl⟩, ⟨.r, rfl, rfl⟩, ⟨.f, rfl, rfl⟩]

/-- `TAG`'s mask leaves the low three bits of the immediate free, and the extra condition makes them a tag code. -/
theorem formatDI_tag_rowLaw (hop : opField c = 2) :
    RowLaw (2, 0xFF8FFFF8#32) c (formatDI c fun rd imm => do return .tag rd (← tagOf imm)) := by
  constructor
  · intro i h
    obtain ⟨rd, t, hfields, htyped, rfl⟩ := formatDI_tag_eq_ok.mp h
    exact ⟨htyped, hfields.wordOf_eq hop⟩
  · have hlow : c.toNat % 8 = (immField c).toNat % 8 := by
      rw [immField_toNat]
      omega
    rw [RowMatches, and_mask_eq_iff_fieldsBelow (kd := 3) (k1 := 0) (k2 := 0) (ki := 3) (by decide) (by decide) hop, hlow]
    constructor
    · rintro ⟨i, h⟩
      obtain ⟨rd, t, hfields, htyped, -⟩ := formatDI_tag_eq_ok.mp h
      have hcode := exists_typed_code_iff.mp ⟨t, htyped, rfl⟩
      have hlt : t.code < 8 := by omega
      rw [hfields.imm_eq, Nat.mod_eq_of_lt hlt]
      exact ⟨hfields.below rd.isLt one_pos one_pos hlt, fun _ => hcode⟩
    · rintro ⟨⟨hrd, hrs1, hrs2, himm⟩, hcode⟩
      have hrange : 1 ≤ (immField c).toNat ∧ (immField c).toNat ≤ 5 := Nat.mod_eq_of_lt himm ▸ hcode rfl
      obtain ⟨t, htyped, ht⟩ := exists_typed_code_iff.mpr hrange
      exact ⟨.tag ⟨rdField c, hrd⟩ t, formatDI_tag_eq_ok.mpr ⟨_, t, ⟨rfl, by omega, by omega, ht.symm⟩, htyped, rfl⟩⟩

/-- The 25 rows, in the order of the table. -/
theorem rowLaw : ∀ row ∈ opcodeRows, ∀ c : Word, opField c = row.1 → RowLaw row c (decode c) := by
  intro row hrow c hop
  rw [decode, hop]
  simp only [opcodeRows, List.mem_cons, List.not_mem_nil, or_false] at hrow
  rcases hrow with rfl | rfl | rfl | rfl | rfl | rfl | rfl | rfl | rfl | rfl | rfl | rfl | rfl | rfl | rfl | rfl | rfl | rfl
    | rfl | rfl | rfl | rfl | rfl | rfl | rfl
  · exact formatN_rowLaw (i := .nop) hop (by decide) ⟨rfl, rfl⟩
  · exact formatI_rowLaw (mk := .cfg) hop (by decide) fun _ => ⟨rfl, rfl⟩
  · exact formatDI_tag_rowLaw hop
  · exact formatDS_rowLaw (mk := .mov) hop (by decide) fun _ _ => ⟨rfl, rfl⟩
  · exact formatDS_rowLaw (mk := .ntt) hop (by decide) fun _ _ => ⟨rfl, rfl⟩
  · exact formatDS_rowLaw (mk := .intt) hop (by decide) fun _ _ => ⟨rfl, rfl⟩
  · exact formatDSS_rowLaw (mk := .addq) hop (by decide) fun _ _ _ => ⟨rfl, rfl⟩
  · exact formatDSS_rowLaw (mk := .subq) hop (by decide) fun _ _ _ => ⟨rfl, rfl⟩
  · exact formatDS_rowLaw (mk := .negq) hop (by decide) fun _ _ => ⟨rfl, rfl⟩
  · exact formatDSS_rowLaw (mk := .muln) hop (by decide) fun _ _ _ => ⟨rfl, rfl⟩
  · exact formatDSS_rowLaw (mk := .divn) hop (by decide) fun _ _ _ => ⟨rfl, rfl⟩
  · exact formatDSS_rowLaw (mk := .mulq) hop (by decide) fun _ _ _ => ⟨rfl, rfl⟩
  · exact formatDSS_rowLaw (mk := .divq) hop (by decide) fun _ _ _ => ⟨rfl, rfl⟩
  · exact formatDS_rowLaw (mk := .reduce) hop (by decide) fun _ _ => ⟨rfl, rfl⟩
  · exact formatDS_rowLaw (mk := .center) hop (by decide) fun _ _ => ⟨rfl, rfl⟩
  · exact formatDS_rowLaw (mk := .fft) hop (by decide) fun _ _ => ⟨rfl, rfl⟩
  · exact formatDS_rowLaw (mk := .ifft) hop (by decide) fun _ _ => ⟨rfl, rfl⟩
  · exact formatDSS_rowLaw (mk := .addf) hop (by decide) fun _ _ _ => ⟨rfl, rfl⟩
  · exact formatDSS_rowLaw (mk := .subf) hop (by decide) fun _ _ _ => ⟨rfl, rfl⟩
  · exact formatDS_rowLaw (mk := .negf) hop (by decide) fun _ _ => ⟨rfl, rfl⟩
  · exact formatDSS_rowLaw (mk := .mulf) hop (by decide) fun _ _ _ => ⟨rfl, rfl⟩
  · exact formatDS_rowLaw (mk := .round) hop (by decide) fun _ _ => ⟨rfl, rfl⟩
  · exact formatN_rowLaw (i := .samplez) hop (by decide) ⟨rfl, rfl⟩
  · exact formatSI_rowLaw (mk := .compress) hop (by decide) fun _ _ => ⟨rfl, rfl⟩
  · exact formatDI_rowLaw (mk := .decompress) hop (by decide) fun _ _ => ⟨rfl, rfl⟩

/-- Any `op` number that no row has is unassigned (R77). -/
theorem exists_row_of_decode (h : decode c = .ok i) : ∃ row ∈ opcodeRows, opField c = row.1 := by
  have hmem : opField c ∈ opcodeRows.map Prod.fst := by
    rw [decode] at h
    split at h
    case h_26 => cases h
    all_goals
      next hop =>
        rw [hop]
        decide
  obtain ⟨row, hrow, hop⟩ := List.mem_map.mp hmem
  exact ⟨row, hrow, hop.symm⟩

/-- The law of the row that the word's `op` number selects. -/
theorem wellFormed_and_encode_of_decode (h : decode c = .ok i) : WellFormed i = true ∧ encode i = c := by
  obtain ⟨row, hrow, hop⟩ := exists_row_of_decode h
  exact (rowLaw row hrow c hop).1 i h

theorem opField_of_decode (h : decode c = .ok i) : opField c = opcodeOf i := by
  rw [← opField_encode, (wellFormed_and_encode_of_decode h).2]

/-- Each mask covers the `op` field. -/
theorem opField_of_rowMatches {row : Nat × Word} (hrow : row ∈ opcodeRows) (h : RowMatches row c) : opField c = row.1 := by
  have hmasks : ∀ row ∈ opcodeRows, row.1 < 256 ∧ opField row.2 = 255 := by decide
  obtain ⟨hop, hmask⟩ := hmasks row hrow
  exact ((and_mask_eq_iff hop hmask).mp h.1).1

/-- Settles O2: the word has the command's `op` number and operand fields, which the row's format reads back. -/
theorem decodeUndoesEncode : Obligations.DecodeUndoesEncode := fun _ => decode_encode

/-- Settles O3: the word's fields are those the command was made from, and the fields cover the word. -/
theorem encodeUndoesDecode : Obligations.EncodeUndoesDecode := fun _ _ => wellFormed_and_encode_of_decode

/-- Settles O4: a word that decodes, and a word that matches the row, has the row's `op` number; among the words with that
number the row's law tells which decode. -/
theorem commandExactlyWhenMaskMatches : Obligations.CommandExactlyWhenMaskMatches := by
  refine ⟨fun c row hrow => ⟨?_, fun hmatch => ?_⟩, fun c i h => ?_⟩
  · rintro ⟨i, h, hi⟩
    exact (rowLaw row hrow c ((opField_of_decode h).trans hi)).2.mp ⟨i, h⟩
  · have hop := opField_of_rowMatches hrow hmatch
    obtain ⟨i, h⟩ := (rowLaw row hrow c hop).2.mpr hmatch
    exact ⟨i, h, (opField_of_decode h).symm.trans hop⟩
  · obtain ⟨row, hrow, hop⟩ := exists_row_of_decode h
    exact ⟨row, hrow, (opField_of_decode h).symm.trans hop⟩

end Sys2Proof.Safety
end

section
/-! A word that is no command (R77): what submitting it does. -/

namespace Sys2Proof.Machine

/-- In an unfaulted machine a word that does not decode ends in fault entry. -/
theorem submit_illegal (cfg : Configuration) {c : Word} {e : Illegal} {s : State} (hd : decode c = .error e)
    (hf : s.fault = none) : submit cfg c s = .next (s.faultEntry .illegalCmd c) := by
  simp [submit, hd, hf]

theorem hostWrite_cmd (cfg : Configuration) (c : Word) (s : State) : hostWrite cfg cmdOffset c s = submit cfg c s := if_pos rfl

end Sys2Proof.Machine

namespace Sys2Proof.Safety

open Sys2Proof.Machine

theorem decode_error_of_no_row {c : Word} (h : ∀ row ∈ opcodeRows, ¬ RowMatches row c) : ∃ e, decode c = .error e := by
  cases hd : decode c with
  | error e => exact ⟨e, rfl⟩
  | ok i =>
    obtain ⟨row, hrow, hi⟩ := commandExactlyWhenMaskMatches.2 c i hd
    exact absurd ((commandExactlyWhenMaskMatches.1 c row hrow).mp ⟨i, hd, hi⟩) (h row hrow)

/-- Settles O6: by O4 the word does not decode, so the write to `CMD` is fault entry. -/
theorem illegalWordFaults : Obligations.IllegalWordFaults := by
  intro s c rest hleaf hfault hinputs hrows
  obtain ⟨e, hdecode⟩ := decode_error_of_no_row hrows
  rw [step_write hleaf hinputs (by decide), hostWrite_cmd, submit_illegal _ hdecode (by simpa using hfault)]
  rfl

end Sys2Proof.Safety
end

section
/-! How a command ends, in the terms the statements are made in (R90, R200): fault entry by the first failing check, the faults
of the configuration and of the source tags, and the commit that writes the lanes of a destination. -/

namespace Sys2Proof.Machine

theorem firstFault_singleton (c : Option PrauFault) : firstFault [c] = c := by
  cases c <;> rfl

/-- Sources with an admitted combination of tags pass step 3, when no admitted combination has `E`. -/
theorem tagCheck_of_mem_admitted {s : State} {sources : List Reg} {admitted : List (List Tag)}
    (hwritten : ∀ ts ∈ admitted, Tag.e ∉ ts) (h : (sources.map fun r => s.tags[r]) ∈ admitted) :
    tagCheck s sources admitted = none :=
  tagCheck_admitted (fun _ hr he => hwritten _ h (he ▸ List.mem_map_of_mem hr)) h

/-- The active lanes, by their index. -/
theorem State.forall_mem_lanes {s : State} {r : Reg} {P : Lane → Prop} :
    (∀ c ∈ s.lanes r, P c) ↔ ∀ j < s.n, P (s.lane r j) := by
  simp only [State.lanes, List.forall_mem_map, List.mem_range]

theorem State.lanes_getElem (s : State) (r : Reg) {j : Nat} (h : j < (s.lanes r).length) : (s.lanes r)[j] = s.lane r j := by
  simp only [State.lanes, List.getElem_map, List.getElem_range]

end Sys2Proof.Machine

namespace Sys2Proof.Safety

open Sys2Proof.Machine

variable {i : Instr} {s : State} {f : PrauFault} {rd : Reg} {tag : Tag} {sources : List Reg} {admitted : List (List Tag)}
  {checks : List (Option PrauFault)} {commit : State → State}

/-- The first failing check of a well-formed command is the fault it raises. -/
theorem faults_of_firstFault (hexec : exec i s = runCommand i s checks commit) (hfault : s.fault = none)
    (hwf : WellFormed i = true) (hcheck : firstFault checks = some f) : Faults i s f :=
  hexec.trans (runCommand_faults hfault (by rw [legalCheck_wellFormed hwf, firstFault_cons_none, hcheck]))

/-- A well-formed command whose checks all pass commits. -/
theorem exec_commits (hexec : exec i s = runCommand i s checks commit) (hfault : s.fault = none)
    (hwf : WellFormed i = true) (hchecks : firstFault checks = none) : exec i s = .next (commit s) :=
  hexec.trans (runCommand_commits hfault (by rw [legalCheck_wellFormed hwf, firstFault_cons_none, hchecks]))

/-- The faults of steps 2 and 3 of R90, for every command that makes these two checks first. -/
theorem configAndTagFaults_of_exec
    (hexec : exec i s = runCommand i s (needsN s :: tagCheck s sources admitted :: checks) commit)
    (hfault : s.fault = none) (hwf : WellFormed i = true) : ConfigAndTagFaults i s sources admitted := by
  refine ⟨fun hn => ?_, fun hn he => ?_, fun hn he hdomain => ?_⟩ <;> refine faults_of_firstFault hexec hfault hwf ?_
  · rw [needsN_zero hn, firstFault_cons_some]
  · rw [needsN_configured hn, tagCheck_unwritten he, firstFault_cons_none, firstFault_cons_some]
  · rw [needsN_configured hn, tagCheck_domain he hdomain, firstFault_cons_none, firstFault_cons_some]

/-- Steps 2 and 3 pass when `LOGN` is set and the tags of the sources are admitted: what is left are the data checks. -/
theorem firstFault_of_admitted (hlogn : s.logn ≠ 0#4) (hwritten : ∀ ts ∈ admitted, Tag.e ∉ ts)
    (htags : (sources.map fun r => s.tags[r]) ∈ admitted) :
    firstFault (needsN s :: tagCheck s sources admitted :: checks) = firstFault checks := by
  rw [needsN_configured hlogn, tagCheck_of_mem_admitted hwritten htags, firstFault_cons_none, firstFault_cons_none]

/-- A commit of one lane for each active lane writes them and nothing else. -/
theorem writesLanes_commitLanes {ls : List Lane} {g : Nat → Lane} (hlength : ls.length = s.n)
    (hlanes : ∀ j, (h : j < ls.length) → ls[j] = g j) : WritesLanes s (s.commitLanes rd tag ls) rd tag g := by
  refine ⟨⟨_, rfl⟩, fun j hj => ?_, fun a ha => s.commitLanes_byteAt rd tag ls a (hlength ▸ ha)⟩
  rw [s.commitLanes_lane rd tag ls j (hlength ▸ hj), hlanes]

end Sys2Proof.Safety
end

section
/-! The control commands `NOP`, `CFG`, `TAG`, `MOV` (R91 to R94). -/

namespace Sys2Proof

/-- A word of format `N` with a bit set below `op` is no command (R71, R77). -/
theorem formatN_eq_error {c : Word} {i : Instr} (h : ¬ HasFields c 0 0 0 0) : formatN c i = .error .nonZeroField := by
  have hfields : ([rdField c, rs1Field c, rs2Field c, (immField c).toNat].all (· == 0)) = false := by
    simpa [HasFields] using h
  rw [formatN, mustBeZero, hfields]
  rfl

end Sys2Proof

namespace Sys2Proof.Machine

/-! The arms of `exec`. -/

theorem exec_nop (s : State) : exec .nop s = execNop s := rfl

theorem exec_cfg (imm : BitVec 12) (s : State) : exec (.cfg imm) s = execCfg imm s := rfl

theorem exec_tag (rd : Reg) (t : Tag) (s : State) : exec (.tag rd t) s = execTag rd t s := rfl

theorem exec_mov (rd rs1 : Reg) (s : State) : exec (.mov rd rs1) s = execMov rd rs1 s := rfl

/-! Their checks. -/

theorem cfgCheck_outside {imm : BitVec 12} (h : imm.toNat < 1 ∨ 10 < imm.toNat) : cfgCheck imm = some .invalidParam :=
  if_pos h

theorem tagDataCheck_range {q : Nat} {t : Tag} {ls : List Lane} (h : ¬ ∀ c ∈ ls, tagAdmits q t c = true) :
    tagDataCheck q t ls = some .range :=
  if_neg (by simpa using h)

/-- The source tags that `MOV` admits are the typed ones (R94). -/
theorem mem_typed_tags {t : Tag} : [t] ∈ [[Tag.z], [.q], [.n], [.r], [.f]] ↔ t.typed = true := by
  cases t <;> decide

end Sys2Proof.Machine

namespace Sys2Proof.Safety

open Sys2Proof.Machine

/-- For a tag that can be set, `TAG`'s data check is the condition of R93. -/
theorem tagAdmits_iff_meetsTag {t : Tag} (ht : t.typed = true) {c : Lane} :
    tagAdmits Config.hw.q t c = true ↔ MeetsTag t c := by
  refine ⟨meetsTag_of_tagAdmits, fun h => ?_⟩
  cases t <;> simp_all [tagAdmits, MeetsTag, Tag.typed]

/-- Settles O19: `NOP` has no checks of its own, and the word 0 is the only one of its `op` number whose operand fields are
zero. -/
theorem nopSetsResultOk : Obligations.NopSetsResultOk := by
  refine ⟨rfl, fun s hfault => (exec_nop s).trans (runCommand_commits hfault rfl), fun _ => exec_dropped, fun c hop hc => ?_⟩
  rw [decode, hop]
  exact formatN_eq_error fun hfields => hc (hfields.wordOf_eq hop).symm

/-- Settles O20: the one check of `CFG` is that of its immediate. -/
theorem cfgSelectsDimension : Obligations.CfgSelectsDimension := by
  intro s imm hfault
  refine ⟨rfl, fun hpos hmax => ?_, fun hout => ?_⟩
  · rw [BitVec.ofNat_toNat]
    exact exec_commits (exec_cfg imm s) hfault rfl ((firstFault_singleton _).trans (cfgCheck_eq_none.mpr ⟨hpos, hmax⟩))
  · exact faults_of_firstFault (exec_cfg imm s) hfault rfl ((firstFault_singleton _).trans (cfgCheck_outside hout))

/-- Settles O21: past the checks of configuration and tag, the data check decides; a commit stores the lanes as they were
read. -/
theorem tagTypesHostData : Obligations.TagTypesHostData := by
  intro s rd t ht hfault
  refine ⟨rfl, configAndTagFaults_of_exec (exec_tag rd t s) hfault ht, fun hlogn hraw => ?_⟩
  have htags : [s.tags[rd]] ∈ [[Tag.raw]] := hraw ▸ List.mem_singleton_self _
  have hchecks : firstFault [needsN s, tagCheck s [rd] [[.raw]], tagDataCheck Config.hw.q t (s.lanes rd)] =
      tagDataCheck Config.hw.q t (s.lanes rd) :=
    (firstFault_of_admitted hlogn (by decide) htags).trans (firstFault_singleton _)
  have hdata : (∀ c ∈ s.lanes rd, tagAdmits Config.hw.q t c = true) ↔ ∀ j < s.n, MeetsTag t (s.lane rd j) := by
    simp only [tagAdmits_iff_meetsTag ht, State.forall_mem_lanes]
  refine ⟨fun hmeets => ?_, fun hfails => ?_⟩
  · have hpass := tagDataCheck_eq_none.mpr (hdata.mpr hmeets)
    exact ⟨_, exec_commits (exec_tag rd t s) hfault ht (hchecks.trans hpass),
      writesLanes_commitLanes (s.lanes_length rd) fun _ => s.lanes_getElem rd⟩
  · have hrange := tagDataCheck_range (mt hdata.mp (by simpa using hfails))
    exact faults_of_firstFault (exec_tag rd t s) hfault ht (hchecks.trans hrange)

/-- Settles O22: a typed source passes both checks, and the commit writes the source's lanes under its tag. -/
theorem movCopiesRegister : Obligations.MovCopiesRegister := by
  intro s rd rs1 hfault
  refine ⟨rfl, configAndTagFaults_of_exec (exec_mov rd rs1 s) hfault rfl, fun hlogn htyped => ?_⟩
  have hchecks : firstFault [needsN s, tagCheck s [rs1] [[.z], [.q], [.n], [.r], [.f]]] = none :=
    firstFault_of_admitted hlogn (by decide) (mem_typed_tags.mpr htyped)
  exact ⟨_, exec_commits (exec_mov rd rs1 s) hfault rfl hchecks,
    writesLanes_commitLanes (s.lanes_length rs1) fun _ => s.lanes_getElem rs1⟩

end Sys2Proof.Safety
end

section
/-! The transform, its inverse and the negacyclic product over a field, at a root of order `2n` (R6, R8, R101, R102). -/

namespace Sys2Proof.Safety

/-- R101 over a commutative ring: the value at `x^(2k+1)` of the polynomial with the coefficients `a`. -/
def transform {R : Type*} [CommRing R] (n : ℕ) (x : R) (a : ℕ → R) (k : ℕ) : R :=
  ∑ j ∈ Finset.range n, a j * x ^ ((2 * k + 1) * j)

/-- R102 over a field. -/
def inverseTransform {K : Type*} [Field K] (n : ℕ) (x : K) (A : ℕ → K) (j : ℕ) : K :=
  (n : K)⁻¹ * ∑ k ∈ Finset.range n, A k * x⁻¹ ^ ((2 * k + 1) * j)

/-- R8 over a commutative ring: coefficient `k` of the product modulo `X^n + 1`. -/
def negacyclicProduct {R : Type*} [CommRing R] (n : ℕ) (a b : ℕ → R) (k : ℕ) : R :=
  ∑ i ∈ Finset.range n, ∑ j ∈ Finset.range n,
    if i + j = k then a i * b j else if i + j = k + n then -(a i * b j) else 0

section
variable {K : Type*} [Field K] {n : ℕ} {x : K}

/-- The powers of a quotient of two `n`-th roots of unity sum to 0, unless the two are the same. -/
theorem sum_pow_quotient {y : K} (hy : IsPrimitiveRoot y n) {i j : ℕ} (hi : i < n) (hj : j < n) :
    ∑ k ∈ Finset.range n, (y ^ i * y⁻¹ ^ j) ^ k = if i = j then (n : K) else 0 := by
  have hne : y ≠ 0 := hy.ne_zero (by omega)
  split
  · next h => simp [h, hne]
  · next h =>
    have hroot : (y ^ i * y⁻¹ ^ j) ^ n = 1 := by
      rw [mul_pow, ← pow_mul, ← pow_mul, mul_comm i, mul_comm j, pow_mul, pow_mul, inv_pow, hy.pow_eq_one]
      simp
    have hquotient : y ^ i * y⁻¹ ^ j ≠ 1 := by
      intro he
      rw [inv_pow, mul_inv_eq_one₀ (pow_ne_zero j hne)] at he
      exact h (hy.pow_inj hi hj he)
    have hgeom := mul_geom_sum (y ^ i * y⁻¹ ^ j) n
    rw [hroot, sub_self] at hgeom
    exact (mul_eq_zero.mp hgeom).resolve_left (sub_ne_zero.mpr hquotient)

variable (hx : IsPrimitiveRoot x (2 * n))
include hx

theorem pow_length_eq_neg_one (hn : 0 < n) : x ^ n = -1 :=
  (hx.pow (by omega) (mul_comm 2 n)).eq_neg_one_of_two_right

theorem length_cast_ne_zero (hn : 0 < n) : (n : K) ≠ 0 := by
  have : NeZero n := ⟨hn.ne'⟩
  exact (hx.pow (by omega) rfl).neZero'.out

theorem inverseTransform_transform (a : ℕ → K) {i : ℕ} (hi : i < n) :
    inverseTransform n x (transform n x a) i = a i := by
  have hy : IsPrimitiveRoot (x ^ 2) n := hx.pow (by omega) rfl
  have hn : (n : K) ≠ 0 := length_cast_ne_zero hx (by omega)
  have hterm (j k : ℕ) : a j * x ^ ((2 * k + 1) * j) * x⁻¹ ^ ((2 * k + 1) * i) =
      a j * (x ^ j * x⁻¹ ^ i) * ((x ^ 2) ^ j * (x ^ 2)⁻¹ ^ i) ^ k := by ring
  have hcoeff : ∀ j ∈ Finset.range n, ∑ k ∈ Finset.range n, a j * x ^ ((2 * k + 1) * j) * x⁻¹ ^ ((2 * k + 1) * i) =
      if j = i then n * a i else 0 := by
    intro j hj
    simp only [hterm, ← Finset.mul_sum, sum_pow_quotient hy (Finset.mem_range.mp hj) hi]
    split
    · next h =>
      rw [h, inv_pow, mul_inv_cancel₀ (pow_ne_zero i (hx.ne_zero (by omega)))]
      ring
    · rw [mul_zero]
  simp only [inverseTransform, transform, Finset.sum_mul]
  rw [Finset.sum_comm, Finset.sum_congr rfl hcoeff, Finset.sum_ite_eq', if_pos (Finset.mem_range.mpr hi),
    inv_mul_cancel_left₀ hn]

theorem transform_inverseTransform (A : ℕ → K) {k : ℕ} (hk : k < n) :
    transform n x (inverseTransform n x A) k = A k := by
  have hy : IsPrimitiveRoot (x ^ 2) n := hx.pow (by omega) rfl
  have hn : (n : K) ≠ 0 := length_cast_ne_zero hx (by omega)
  have hx0 : x ≠ 0 := hx.ne_zero (by omega)
  have hterm (l j : ℕ) : (n : K)⁻¹ * (A l * x⁻¹ ^ ((2 * l + 1) * j)) * x ^ ((2 * k + 1) * j) =
      (n : K)⁻¹ * A l * ((x ^ 2) ^ k * (x ^ 2)⁻¹ ^ l) ^ j := by
    have hone : x ^ (2 * k + 1) * x⁻¹ ^ (2 * l + 1) = (x ^ 2) ^ k * (x ^ 2)⁻¹ ^ l := by
      rw [pow_succ, pow_succ, mul_mul_mul_comm, mul_inv_cancel₀ hx0]
      ring
    rw [← hone]
    ring
  have hvalue : ∀ l ∈ Finset.range n,
      ∑ j ∈ Finset.range n, (n : K)⁻¹ * (A l * x⁻¹ ^ ((2 * l + 1) * j)) * x ^ ((2 * k + 1) * j) =
      if k = l then A l else 0 := by
    intro l hl
    simp only [hterm, ← Finset.mul_sum, sum_pow_quotient hy hk (Finset.mem_range.mp hl)]
    split
    · rw [mul_right_comm, inv_mul_cancel₀ hn, one_mul]
    · rw [mul_zero]
  simp only [inverseTransform, transform, Finset.mul_sum, Finset.sum_mul]
  rw [Finset.sum_comm, Finset.sum_congr rfl hvalue, Finset.sum_ite_eq, if_pos (Finset.mem_range.mpr hk)]

end

section
variable {R : Type*} [CommRing R] {n : ℕ} {x : R}

/-- A monomial `c·X^m` with `m < 2n`, folded by `X^n = −1`, keeps its value at a point `y` with `y^n = −1`. -/
theorem sum_folded_monomial {y : R} (hy : y ^ n = -1) (c : R) {m : ℕ} (hm : m < 2 * n) :
    ∑ k ∈ Finset.range n, (if m = k then c else if m = k + n then -c else 0) * y ^ k = c * y ^ m := by
  by_cases h : m < n
  · rw [Finset.sum_eq_single_of_mem m (Finset.mem_range.mpr h), if_pos rfl]
    intro k hk hne
    rw [if_neg hne.symm, if_neg (by omega), zero_mul]
  · obtain ⟨l, rfl⟩ := Nat.exists_eq_add_of_le' (not_lt.mp h)
    rw [Finset.sum_eq_single_of_mem l (Finset.mem_range.mpr (by omega)), if_neg (by omega), if_pos rfl, pow_add, hy]
    · ring
    · intro k hk hne
      rw [Finset.mem_range] at hk
      rw [if_neg (by omega), if_neg (by omega), zero_mul]

/-- R115(2): the points are roots of `X^n + 1`, so the value of the ring product is the product of the values. -/
theorem transform_negacyclicProduct (hx : x ^ n = -1) (a b : ℕ → R) (k : ℕ) :
    transform n x (negacyclicProduct n a b) k = transform n x a k * transform n x b k := by
  have hpoint : (x ^ (2 * k + 1)) ^ n = -1 := by
    rw [← pow_mul, mul_comm, pow_mul, hx, Odd.neg_one_pow ⟨k, rfl⟩]
  simp only [transform, pow_mul] at hpoint ⊢
  generalize x ^ (2 * k + 1) = y at hpoint ⊢
  rw [Finset.sum_mul_sum]
  simp only [negacyclicProduct, Finset.sum_mul]
  rw [Finset.sum_comm]
  refine Finset.sum_congr rfl fun i hi => ?_
  rw [Finset.sum_comm]
  refine Finset.sum_congr rfl fun j hj => ?_
  rw [Finset.mem_range] at hi hj
  rw [sum_folded_monomial hpoint _ (by omega)]
  ring

end

end Sys2Proof.Safety
end

section
/-! Lists of residues as functions of their index: the machine's transforms are the sums of R101 and R102, and these are the
transforms over the field of residues. -/

namespace Sys2Proof.Machine

open Safety

theorem weighFrom_map_range' (f a : ℕ → ℕ) (i n : ℕ) :
    weighFrom f i ((List.range' i n).map a) = ∑ j ∈ Finset.range n, a (i + j) * f (i + j) := by
  induction n generalizing i with
  | zero => rfl
  | succ n ih =>
    rw [List.range'_succ, List.map_cons, weighFrom, ih, Finset.sum_range_succ', add_comm]
    simp only [Nat.add_assoc, Nat.add_comm 1, Nat.add_zero]

theorem weigh_map_range (f a : ℕ → ℕ) (n : ℕ) :
    weigh f ((List.range n).map a) = ∑ j ∈ Finset.range n, a j * f j := by
  rw [weigh, List.range_eq_range', weighFrom_map_range']
  simp only [Nat.zero_add]

theorem weighFrom_replicate_zero (f : ℕ → ℕ) (i m : ℕ) : weighFrom f i (List.replicate m 0) = 0 := by
  induction m generalizing i with
  | zero => rfl
  | succ m ih => rw [List.replicate_succ, weighFrom, ih, Nat.zero_mul]

/-- A list is determined by its length and its entries. -/
theorem eq_map_range_getD {l : List ℕ} {n : ℕ} (h : l.length = n) : l = (List.range n).map fun j => l.getD j 0 := by
  apply List.ext_getElem
  · simp [h]
  · intro j hj _
    simp [List.getElem?_eq_getElem hj]

theorem map_mod_eq_self {l : List ℕ} {q : ℕ} (h : ∀ v ∈ l, v < q) : l.map (· % q) = l := by
  conv_rhs => rw [← List.map_id l]
  exact List.map_congr_left fun v hv => Nat.mod_eq_of_lt (h v hv)

/-- A residue is determined by its class. -/
theorem eq_mod_of_cast_eq {q x y : ℕ} (hx : x < q) (h : (x : ZMod q) = y) : x = y % q := by
  rw [← (ZMod.natCast_eq_natCast_iff' x y q).mp h, Nat.mod_eq_of_lt hx]

theorem cast_mul_eq_one {q x y : ℕ} (h : x * y % q = 1) : (x : ZMod q) * y = 1 := by
  rw [← Nat.cast_mul, ← ZMod.natCast_mod, h, Nat.cast_one]

theorem modQ_cast (q : ℕ) (z : ℤ) (hq : 0 < q) : (modQ q z : ZMod q) = z := by
  have hnonneg : 0 ≤ z % (q : ℤ) := Int.emod_nonneg z (by omega)
  rw [← Int.cast_natCast (modQ q z), modQ, Int.toNat_of_nonneg hnonneg, ZMod.intCast_mod]

/-- R8 with log 19, in the field of residues. -/
theorem invQ_cast {q : ℕ} [Fact q.Prime] (hq : 2 < q) (x : ℕ) : (invQ q x : ZMod q) = (x : ZMod q)⁻¹ := by
  rw [invQ, ZMod.natCast_mod, Nat.cast_pow]
  by_cases hx : (x : ZMod q) = 0
  · rw [hx, zero_pow (by omega), inv_zero]
  · apply eq_inv_of_mul_eq_one_left
    rw [← pow_succ, show q - 2 + 1 = q - 1 by omega, ZMod.pow_card_sub_one_eq_one hx]

/-- The division of R110: the one residue whose product with the divisor is the dividend. -/
theorem mulMod_eq_iff_eq_divMod {p : Params} (hp : p.WF) {x y : ℕ} (z : ℕ) (hx : x < p.q) (hy : y ≠ 0) (hyq : y < p.q) :
    mulMod p x y = z % p.q ↔ x = divMod p z y := by
  have hinv : (invQ p.q y : ZMod p.q) * y = 1 :=
    cast_mul_eq_one (invQ_mul_mod hp.prime (Nat.not_dvd_of_pos_of_lt (by omega) hyq))
  constructor
  · intro h
    have hcast : (x : ZMod p.q) * y = z := by
      rw [← Nat.cast_mul]
      exact (ZMod.natCast_eq_natCast_iff' _ _ _).mpr h
    refine eq_mod_of_cast_eq hx ?_
    rw [Nat.cast_mul, ← hcast, mul_assoc, mul_comm (y : ZMod p.q), hinv, mul_one]
  · rintro rfl
    refine (ZMod.natCast_eq_natCast_iff' _ _ _).mp ?_
    rw [divMod, Nat.cast_mul, ZMod.natCast_mod, Nat.cast_mul, mul_assoc, hinv, mul_one]

theorem mulMod_comm (p : Params) (x y : ℕ) : mulMod p x y = mulMod p y x := by rw [mulMod, mulMod, Nat.mul_comm]

theorem mulMod_lt {p : Params} (hp : p.WF) (x y : ℕ) : mulMod p x y < p.q := Nat.mod_lt _ hp.prime.pos

theorem divMod_lt {p : Params} (hp : p.WF) (x y : ℕ) : divMod p x y < p.q := Nat.mod_lt _ hp.prime.pos

/-- R101: the machine's transform takes the values at the odd powers of `psi_n`. -/
theorem nttLane_map_range (p : Params) (logn : ℕ) (a : ℕ → ℕ) (k : ℕ) :
    nttLane p logn ((List.range (2 ^ logn)).map a) k = evaluation p (2 ^ logn) a k := by
  rw [nttLane, weigh_map_range, evaluation, psiN_eq_rootOf]
  refine (ZMod.natCast_eq_natCast_iff' _ _ _).mp ?_
  simp only [Nat.cast_sum, Nat.cast_mul, Nat.cast_pow, ZMod.natCast_mod, pow_mul]

theorem ntt_map_range (p : Params) (logn : ℕ) (a : ℕ → ℕ) :
    ntt p logn ((List.range (2 ^ logn)).map a) = (List.range (2 ^ logn)).map (evaluation p (2 ^ logn) a) :=
  List.map_congr_left fun k _ => nttLane_map_range p logn a k

/-- R102: the machine's inverse transform is the inverse transform over the field of residues. -/
theorem inttLane_map_range_cast {p : Params} [Fact p.q.Prime] (hq : 2 < p.q) (logn : ℕ) (A : ℕ → ℕ) (j : ℕ) :
    (inttLane p logn ((List.range (2 ^ logn)).map A) j : ZMod p.q) =
      inverseTransform (2 ^ logn) (rootOf p (2 ^ logn) : ZMod p.q) (fun k => A k) j := by
  rw [inttLane, weigh_map_range, nInv, invQ_mod, psiN_eq_rootOf, inverseTransform]
  simp only [ZMod.natCast_mod, Nat.cast_mul, Nat.cast_sum, Nat.cast_pow, invQ_cast hq, pow_mul]

end Sys2Proof.Machine

namespace Sys2Proof.Safety

open Sys2Proof.Machine

theorem evaluation_cast (p : Params) (n : ℕ) (a : ℕ → ℕ) (k : ℕ) :
    (evaluation p n a k : ZMod p.q) = transform n (rootOf p n : ZMod p.q) (fun j => a j) k := by
  simp only [evaluation, transform, ZMod.natCast_mod, Nat.cast_sum, Nat.cast_mul, Nat.cast_pow]

theorem ringProduct_cast {p : Params} (hq : 0 < p.q) (n : ℕ) (a b : ℕ → ℕ) (k : ℕ) :
    (ringProduct p n a b k : ZMod p.q) = negacyclicProduct n (fun j => (a j : ZMod p.q)) (fun j => b j) k := by
  refine (modQ_cast p.q _ hq).trans ?_
  simp only [negacyclicProduct, Int.cast_sum, Int.cast_ite, Int.cast_neg, Int.cast_mul, Int.cast_natCast, Int.cast_zero]

theorem evaluation_lt {p : Params} (hp : p.WF) (n : ℕ) (a : ℕ → ℕ) (k : ℕ) : evaluation p n a k < p.q :=
  Nat.mod_lt _ hp.prime.pos

theorem ringProduct_lt {p : Params} (hp : p.WF) (n : ℕ) (a b : ℕ → ℕ) (k : ℕ) : ringProduct p n a b k < p.q :=
  modQ_lt hp.prime.pos _

/-- `psi_n` has order `2n` in the field of residues (R6). -/
theorem isPrimitiveRoot_rootOf {p : Params} (hp : p.WF) {logn : ℕ} (hlogn : 1 ≤ logn) (hle : logn ≤ 10) :
    IsPrimitiveRoot (rootOf p (2 ^ logn) : ZMod p.q) (2 * 2 ^ logn) := by
  have hlt := hp.lt_q
  have : Fact (2 < p.q) := ⟨by omega⟩
  have hpow : (rootOf p (2 ^ logn) : ZMod p.q) ^ 2 ^ logn = -1 := by
    rw [← Nat.cast_pow, ← ZMod.natCast_mod, (rootHasOrderTwoN.2 p logn hp hlogn hle).1, Nat.cast_sub hp.prime.one_le]
    simp
  have horder : orderOf (rootOf p (2 ^ logn) : ZMod p.q) = 2 ^ (logn + 1) := by
    refine orderOf_eq_prime_pow ?_ ?_
    · rw [hpow]
      exact ZMod.neg_one_ne_one
    · rw [pow_succ, pow_mul, hpow, neg_one_sq]
  rw [← Nat.pow_succ', Nat.succ_eq_add_one, ← horder]
  exact IsPrimitiveRoot.orderOf _

end Sys2Proof.Safety
end

section
/-! The two transforms undo each other, and take the ring of R8 to lanes (R102, R115). -/

namespace Sys2Proof.Machine

open Safety

/-! What of the transform holds at any root. -/

theorem forall_mem_zipWith {f : ℕ → ℕ → ℕ} {P : ℕ → Prop} (h : ∀ x y, P (f x y)) {A B : List ℕ} :
    ∀ v ∈ List.zipWith f A B, P v := by
  rw [← List.map_uncurry_zip_eq_zipWith, List.forall_mem_map]
  exact fun _ _ => h _ _

theorem evaluation_add (p : Params) (n : ℕ) (a b : ℕ → ℕ) (k : ℕ) :
    evaluation p n (fun j => (a j + b j) % p.q) k = (evaluation p n a k + evaluation p n b k) % p.q := by
  refine (ZMod.natCast_eq_natCast_iff' _ _ _).mp ?_
  simp only [evaluation, Nat.cast_add, Nat.cast_sum, Nat.cast_mul, ZMod.natCast_mod, add_mul, Finset.sum_add_distrib]

theorem evaluation_mod (p : Params) (n : ℕ) (a : ℕ → ℕ) (k : ℕ) :
    evaluation p n (fun j => a j % p.q) k = evaluation p n a k := by
  refine (ZMod.natCast_eq_natCast_iff' _ _ _).mp ?_
  simp only [Nat.cast_sum, Nat.cast_mul, ZMod.natCast_mod]

theorem cast_complement {q y : ℕ} (h : y ≤ q) : ((q - y : ℕ) : ZMod q) = -y := by
  rw [Nat.cast_sub h, ZMod.natCast_self, zero_sub]

theorem evaluation_complement {p : Params} (hp : p.WF) {n : ℕ} {b : ℕ → ℕ} (hb : ∀ j < n, b j ≤ p.q) (k : ℕ) :
    evaluation p n (fun j => p.q - b j) k = (p.q - evaluation p n b k) % p.q := by
  refine eq_mod_of_cast_eq (evaluation_lt hp _ _ _) ?_
  rw [cast_complement (evaluation_lt hp _ _ _).le, evaluation_cast, evaluation_cast, transform, transform,
    ← Finset.sum_neg_distrib]
  refine Finset.sum_congr rfl fun j hj => ?_
  rw [cast_complement (hb j (Finset.mem_range.mp hj)), neg_mul]

theorem ntt_eq_map_evaluation (p : Params) {logn : ℕ} {a : List ℕ} (ha : a.length = 2 ^ logn) :
    ntt p logn a = (List.range (2 ^ logn)).map (evaluation p (2 ^ logn) fun j => a.getD j 0) := by
  conv_lhs => rw [eq_map_range_getD ha, ntt_map_range]

/-- The transform depends on the residues alone. -/
theorem ntt_map_mod {p : Params} {logn : ℕ} {a : List ℕ} (ha : a.length = 2 ^ logn) :
    ntt p logn (a.map (· % p.q)) = ntt p logn a := by
  rw [eq_map_range_getD ha, List.map_map, ntt_map_range, ntt_map_range]
  exact List.map_congr_left fun k _ => evaluation_mod p _ _ k

theorem ntt_add (p : Params) {logn : ℕ} {a b : List ℕ} (ha : a.length = 2 ^ logn) (hb : b.length = 2 ^ logn) :
    ntt p logn (List.zipWith (fun x y => (x + y) % p.q) a b) =
      List.zipWith (fun x y => (x + y) % p.q) (ntt p logn a) (ntt p logn b) := by
  rw [eq_map_range_getD ha, eq_map_range_getD hb]
  simp only [List.zipWith_map, List.zipWith_self, ntt_map_range]
  exact List.map_congr_left fun k _ => evaluation_add p _ _ _ k

theorem getD_le {b : List ℕ} {q : ℕ} (hb : ∀ v ∈ b, v < q) (j : ℕ) : b.getD j 0 ≤ q := by
  rw [List.getD_eq_getElem?_getD]
  cases h : b[j]? with
  | none => exact Nat.zero_le q
  | some v => exact (hb v (List.mem_of_getElem? h)).le

theorem ntt_sub {p : Params} (hp : p.WF) {logn : ℕ} {a b : List ℕ} (ha : a.length = 2 ^ logn)
    (hb : b.length = 2 ^ logn) (hbq : ∀ v ∈ b, v < p.q) :
    ntt p logn (List.zipWith (fun x y => (x + (p.q - y)) % p.q) a b) =
      List.zipWith (fun x y => (x + (p.q - y)) % p.q) (ntt p logn a) (ntt p logn b) := by
  rw [eq_map_range_getD ha, eq_map_range_getD hb]
  simp only [List.zipWith_map, List.zipWith_self, ntt_map_range]
  refine List.map_congr_left fun k _ => ?_
  rw [evaluation_add p _ _ (fun j => p.q - b.getD j 0), evaluation_complement hp fun j _ => getD_le hbq j, Nat.add_mod_mod]

theorem ntt_neg {p : Params} (hp : p.WF) {logn : ℕ} {b : List ℕ} (hb : b.length = 2 ^ logn)
    (hbq : ∀ v ∈ b, v < p.q) :
    ntt p logn (b.map fun y => (p.q - y) % p.q) = (ntt p logn b).map fun y => (p.q - y) % p.q := by
  rw [eq_map_range_getD hb, List.map_map, ntt_map_range, ntt_map_range, List.map_map]
  refine List.map_congr_left fun k _ => ?_
  exact (evaluation_mod p _ _ k).trans (evaluation_complement hp (fun j _ => getD_le hbq j) k)

/-- The identity of the ring has the value 1 everywhere. -/
theorem nttLane_one {p : Params} (hp : p.WF) (logn m k : ℕ) : nttLane p logn (1 :: List.replicate m 0) k = 1 := by
  simp only [nttLane, weigh, weighFrom, weighFrom_replicate_zero, pow_zero]
  exact Nat.mod_eq_of_lt hp.prime.one_lt

theorem ntt_one {p : Params} (hp : p.WF) (logn m : ℕ) :
    ntt p logn (1 :: List.replicate m 0) = List.replicate (2 ^ logn) 1 := by
  rw [ntt, List.map_congr_left fun k _ => nttLane_one hp logn m k, List.map_const', List.length_range]

theorem nttLane_lt {p : Params} (hp : p.WF) (logn : ℕ) (a : List ℕ) (k : ℕ) : nttLane p logn a k < p.q :=
  Nat.mod_lt _ hp.prime.pos

/-- Where no value of `b` is zero, products of values determine the other factor, lane by lane. -/
theorem zipWith_mulMod_ntt_eq_iff {p : Params} (hp : p.WF) {logn : ℕ} {a b c : List ℕ} (hb : 0 ∉ ntt p logn b) :
    List.zipWith (mulMod p) (ntt p logn c) (ntt p logn b) = ntt p logn a ↔
      ntt p logn c = List.zipWith (divMod p) (ntt p logn a) (ntt p logn b) := by
  have hlane : ∀ k ∈ List.range (2 ^ logn), nttLane p logn b k ≠ 0 :=
    fun k hk he => hb (List.mem_map.mpr ⟨k, hk, he⟩)
  simp only [ntt, List.zipWith_map, List.zipWith_self, List.map_inj_left]
  refine forall₂_congr fun k hk => ?_
  rw [← mulMod_eq_iff_eq_divMod hp _ (nttLane_lt hp _ _ _) (hlane k hk) (nttLane_lt hp _ _ _),
    Nat.mod_eq_of_lt (nttLane_lt hp logn a k)]

theorem mulRing_comm (p : Params) (logn : ℕ) (a b : List ℕ) : mulRing p logn a b = mulRing p logn b a := by
  rw [mulRing, List.zipWith_comm_of_comm (mulMod_comm p), mulRing]

/-! What needs `psi_n` to have order `2n`. -/

section
variable {p : Params} {logn : ℕ} (hp : p.WF) (hlogn : 1 ≤ logn) (hle : logn ≤ 10)
include hp hlogn hle

theorem intt_ntt {a : List ℕ} (ha : a.length = 2 ^ logn) : intt p logn (ntt p logn a) = a.map (· % p.q) := by
  have : Fact p.q.Prime := ⟨hp.prime⟩
  have hlt := hp.lt_q
  rw [eq_map_range_getD ha, ntt_map_range, List.map_map]
  refine List.map_congr_left fun j hj => eq_mod_of_cast_eq (Nat.mod_lt _ hp.prime.pos) ?_
  simp only [inttLane_map_range_cast (by omega : 2 < p.q), evaluation_cast]
  exact inverseTransform_transform (isPrimitiveRoot_rootOf hp hlogn hle) _ (List.mem_range.mp hj)

theorem ntt_intt {A : List ℕ} (hA : A.length = 2 ^ logn) : ntt p logn (intt p logn A) = A.map (· % p.q) := by
  have : Fact p.q.Prime := ⟨hp.prime⟩
  have hlt := hp.lt_q
  rw [eq_map_range_getD hA, intt, ntt_map_range, List.map_map]
  refine List.map_congr_left fun k hk => eq_mod_of_cast_eq (evaluation_lt hp _ _ _) ?_
  simp only [evaluation_cast, inttLane_map_range_cast (by omega : 2 < p.q)]
  exact transform_inverseTransform (isPrimitiveRoot_rootOf hp hlogn hle) _ (List.mem_range.mp hk)

/-- R115(2): the values of the ring product are the products of the values. -/
theorem evaluation_ringProduct (a b : ℕ → ℕ) (k : ℕ) : evaluation p (2 ^ logn) (ringProduct p (2 ^ logn) a b) k =
    mulMod p (evaluation p (2 ^ logn) a k) (evaluation p (2 ^ logn) b k) := by
  have : Fact p.q.Prime := ⟨hp.prime⟩
  have hroot := pow_length_eq_neg_one (isPrimitiveRoot_rootOf hp hlogn hle) (Nat.two_pow_pos logn)
  refine eq_mod_of_cast_eq (evaluation_lt hp _ _ _) ?_
  simp only [Nat.cast_mul, evaluation_cast, ringProduct_cast hp.prime.pos]
  exact transform_negacyclicProduct hroot _ _ k

/-- R111: the product by way of the transform is the negacyclic convolution of R8. -/
theorem mulRing_map_range (a b : ℕ → ℕ) :
    mulRing p logn ((List.range (2 ^ logn)).map a) ((List.range (2 ^ logn)).map b) =
      (List.range (2 ^ logn)).map (ringProduct p (2 ^ logn) a b) := by
  have hvalues : List.zipWith (mulMod p) (ntt p logn ((List.range (2 ^ logn)).map a))
      (ntt p logn ((List.range (2 ^ logn)).map b)) =
      ntt p logn ((List.range (2 ^ logn)).map (ringProduct p (2 ^ logn) a b)) := by
    simp only [ntt_map_range, List.zipWith_map, List.zipWith_self]
    exact List.map_congr_left fun k _ => (evaluation_ringProduct hp hlogn hle a b k).symm
  rw [mulRing, hvalues, intt_ntt hp hlogn hle (by simp)]
  refine map_mod_eq_self ?_
  simp only [List.forall_mem_map]
  exact fun k _ => ringProduct_lt hp _ _ _ k

theorem ntt_mulRing (a b : List ℕ) :
    ntt p logn (mulRing p logn a b) = List.zipWith (mulMod p) (ntt p logn a) (ntt p logn b) := by
  rw [mulRing, ntt_intt hp hlogn hle (by simp)]
  exact map_mod_eq_self (forall_mem_zipWith (mulMod_lt hp))

/-- Lists of residues with the same values are the same. -/
theorem ntt_inj {a b : List ℕ} (ha : a.length = 2 ^ logn) (haq : ∀ v ∈ a, v < p.q) (hb : b.length = 2 ^ logn)
    (hbq : ∀ v ∈ b, v < p.q) : ntt p logn a = ntt p logn b ↔ a = b := by
  refine ⟨fun h => ?_, congrArg _⟩
  rw [← map_mod_eq_self haq, ← intt_ntt hp hlogn hle ha, h, intt_ntt hp hlogn hle hb, map_mod_eq_self hbq]

theorem ntt_divRing (a b : List ℕ) :
    ntt p logn (divRing p logn a b) = List.zipWith (divMod p) (ntt p logn a) (ntt p logn b) := by
  rw [divRing, ntt_intt hp hlogn hle (by simp)]
  exact map_mod_eq_self (forall_mem_zipWith (divMod_lt hp))

/-- R112: the machine's quotient is the one element whose product with the divisor is the dividend. -/
theorem mulRing_eq_iff_eq_divRing {a b c : List ℕ} (ha : a.length = 2 ^ logn) (hc : c.length = 2 ^ logn)
    (hcq : ∀ v ∈ c, v < p.q) (hb : 0 ∉ ntt p logn b) :
    mulRing p logn c b = a.map (· % p.q) ↔ c = divRing p logn a b := by
  have hpos := hp.prime.pos
  have hmod : ∀ v ∈ a.map (· % p.q), v < p.q := by
    simp only [List.forall_mem_map]
    exact fun v _ => Nat.mod_lt v hpos
  calc mulRing p logn c b = a.map (· % p.q)
    _ ↔ ntt p logn (mulRing p logn c b) = ntt p logn (a.map (· % p.q)) :=
      (ntt_inj hp hlogn hle (intt_length ..) (mem_intt_lt hpos) (by rwa [List.length_map]) hmod).symm
    _ ↔ List.zipWith (mulMod p) (ntt p logn c) (ntt p logn b) = ntt p logn a := by
      rw [ntt_mulRing hp hlogn hle, ntt_map_mod ha]
    _ ↔ ntt p logn c = ntt p logn (divRing p logn a b) := by
      rw [zipWith_mulMod_ntt_eq_iff hp hb, ntt_divRing hp hlogn hle]
    _ ↔ c = divRing p logn a b := ntt_inj hp hlogn hle hc hcq (intt_length ..) (mem_intt_lt hpos)

/-- The same for coefficients given by their index: `c` is the machine's quotient, and the one there is. -/
theorem exists_ringQuotient {a b : ℕ → ℕ} (hb : ∀ k < 2 ^ logn, evaluation p (2 ^ logn) b k ≠ 0) :
    ∃ c : ℕ → ℕ, divRing p logn ((List.range (2 ^ logn)).map a) ((List.range (2 ^ logn)).map b) =
        (List.range (2 ^ logn)).map c ∧ (∀ k < 2 ^ logn, c k < p.q) ∧
      ∀ d : ℕ → ℕ, (∀ k < 2 ^ logn, d k < p.q) →
        ((∀ k < 2 ^ logn, ringProduct p (2 ^ logn) d b k = a k % p.q) ↔ ∀ k < 2 ^ logn, d k = c k) := by
  refine ⟨_, rfl, fun k _ => Nat.mod_lt _ hp.prime.pos, fun d hd => ?_⟩
  have hdq : ∀ v ∈ (List.range (2 ^ logn)).map d, v < p.q := by simpa using hd
  have hvalues : 0 ∉ ntt p logn ((List.range (2 ^ logn)).map b) := by simpa [ntt_map_range] using hb
  have hiff := mulRing_eq_iff_eq_divRing (a := (List.range (2 ^ logn)).map a) hp hlogn hle (by simp) (by simp) hdq hvalues
  rw [mulRing_map_range hp hlogn hle, List.map_map, List.map_inj_left, divRing, intt, List.map_inj_left] at hiff
  simpa only [List.mem_range, Function.comp_apply] using hiff

/-- The values of an element that has an inverse are not zero. -/
theorem zero_not_mem_ntt_of_mulRing_eq_one {b c : List ℕ} {m : ℕ}
    (h : mulRing p logn b c = 1 :: List.replicate m 0) : 0 ∉ ntt p logn b := by
  have hvalues := ntt_mulRing hp hlogn hle b c
  rw [h] at hvalues
  simp only [ntt, List.zipWith_map, List.zipWith_self, List.map_inj_left, nttLane_one hp] at hvalues
  intro hzero
  obtain ⟨k, hk, hlane⟩ := List.mem_map.mp hzero
  have hproduct := hvalues k hk
  rw [hlane, mulMod, Nat.zero_mul, Nat.zero_mod] at hproduct
  exact one_ne_zero hproduct

end

end Sys2Proof.Machine

namespace Sys2Proof.Safety

open Sys2Proof.Machine

/-- Settles O51: both compositions reduce each entry modulo `Q`, which leaves residues as they are. -/
theorem transformsAreInverse : Obligations.TransformsAreInverse := by
  intro p logn a hp hlogn hle ha haq
  exact ⟨(intt_ntt hp hlogn hle ha).trans (map_mod_eq_self haq), (ntt_intt hp hlogn hle ha).trans (map_mod_eq_self haq)⟩

/-- An inverse, in the terms of the machine's quotient (R115(3)). -/
theorem mulRing_eq_one_iff {p : Params} {logn : ℕ} (hp : p.WF) (hlogn : 1 ≤ logn) (hle : logn ≤ 10) {b c : List ℕ}
    (hc : c.length = 2 ^ logn) (hcq : ∀ v ∈ c, v < p.q) (hb : 0 ∉ ntt p logn b) :
    mulRing p logn b c = 1 :: List.replicate (2 ^ logn - 1) 0 ↔
      c = divRing p logn (1 :: List.replicate (2 ^ logn - 1) 0) b := by
  have hlength : (1 :: List.replicate (2 ^ logn - 1) 0).length = 2 ^ logn := by
    rw [List.length_cons, List.length_replicate, Nat.sub_add_cancel (Nat.one_le_two_pow)]
  have hone : (1 :: List.replicate (2 ^ logn - 1) 0).map (· % p.q) = 1 :: List.replicate (2 ^ logn - 1) 0 := by
    simp [Nat.mod_eq_of_lt hp.prime.one_lt]
  rw [mulRing_comm, ← mulRing_eq_iff_eq_divRing hp hlogn hle hlength hc hcq hb, hone]

/-- The values of the quotient of the identity by `b` are the inverses of the values of `b` (R115(3)). -/
theorem ntt_divRing_one {p : Params} {logn : ℕ} (hp : p.WF) (hlogn : 1 ≤ logn) (hle : logn ≤ 10) (m : ℕ) (b : List ℕ) :
    ntt p logn (divRing p logn (1 :: List.replicate m 0) b) = (ntt p logn b).map (invQ p.q) := by
  rw [ntt_divRing hp hlogn hle]
  simp only [ntt, List.zipWith_map, List.zipWith_self, List.map_map, nttLane_one hp]
  refine List.map_congr_left fun k _ => ?_
  rw [divMod, Nat.one_mul, invQ, Nat.mod_mod, Function.comp_apply, invQ]

/-- Settles O52: the transform is linear, the product is the ring product and goes to lane products, and an inverse is the
quotient of the identity, which exists when no value is zero. -/
theorem transformIsRingIsomorphism : Obligations.TransformIsRingIsomorphism := by
  rintro p logn n a b one hp hlogn hle rfl ha haq hb hbq rfl
  refine ⟨ntt_eq_map_evaluation p ha, ntt_add p ha hb, ntt_sub hp ha hb hbq, ntt_neg hp hb hbq, ?_,
    ntt_mulRing hp hlogn hle a b, ntt_one hp logn _, ⟨?_, fun hvalues => ?_⟩, fun c hc hcq hinverse => ⟨?_, ?_⟩⟩
  · conv_lhs => rw [eq_map_range_getD ha, eq_map_range_getD hb, mulRing_map_range hp hlogn hle]
  · rintro ⟨c, -, -, hinverse⟩
    exact zero_not_mem_ntt_of_mulRing_eq_one hp hlogn hle hinverse
  · have hlt : ∀ v ∈ divRing p logn (1 :: List.replicate (2 ^ logn - 1) 0) b, v < p.q := mem_intt_lt hp.prime.pos
    exact ⟨_, intt_length .., hlt, (mulRing_eq_one_iff hp hlogn hle (intt_length ..) hlt hvalues).mpr rfl⟩
  · have hvalues := zero_not_mem_ntt_of_mulRing_eq_one hp hlogn hle hinverse
    rw [(mulRing_eq_one_iff hp hlogn hle hc hcq hvalues).mp hinverse, ntt_divRing_one hp hlogn hle]
  · have hproduct := ntt_mulRing hp hlogn hle c b
    rw [mulRing_comm, hinverse, ntt_one hp] at hproduct
    exact hproduct.symm

end Sys2Proof.Safety
end

section
/-! The exact ring commands (R103 to R114). -/

namespace Sys2Proof.Machine

open Safety

/-! The arms of `exec`. -/

theorem exec_ntt (rd rs1 : Reg) (s : State) : exec (.ntt rd rs1) s = execNtt rd rs1 s := rfl

theorem exec_intt (rd rs1 : Reg) (s : State) : exec (.intt rd rs1) s = execIntt rd rs1 s := rfl

theorem exec_addq (rd rs1 rs2 : Reg) (s : State) : exec (.addq rd rs1 rs2) s = execAddq rd rs1 rs2 s := rfl

theorem exec_subq (rd rs1 rs2 : Reg) (s : State) : exec (.subq rd rs1 rs2) s = execSubq rd rs1 rs2 s := rfl

theorem exec_negq (rd rs1 : Reg) (s : State) : exec (.negq rd rs1) s = execNegq rd rs1 s := rfl

theorem exec_muln (rd rs1 rs2 : Reg) (s : State) : exec (.muln rd rs1 rs2) s = execMuln rd rs1 rs2 s := rfl

theorem exec_divn (rd rs1 rs2 : Reg) (s : State) : exec (.divn rd rs1 rs2) s = execDivn rd rs1 rs2 s := rfl

theorem exec_mulq (rd rs1 rs2 : Reg) (s : State) : exec (.mulq rd rs1 rs2) s = execMulq rd rs1 rs2 s := rfl

theorem exec_divq (rd rs1 rs2 : Reg) (s : State) : exec (.divq rd rs1 rs2) s = execDivq rd rs1 rs2 s := rfl

theorem exec_reduce (rd rs1 : Reg) (s : State) : exec (.reduce rd rs1) s = execReduce rd rs1 s := rfl

theorem exec_center (rd rs1 : Reg) (s : State) : exec (.center rd rs1) s = execCenter rd rs1 s := rfl

/-! Their values. -/

theorem modQ_natCast (q x : ℕ) : modQ q x = x % q := by rw [modQ, ← Int.natCast_mod, Int.toNat_natCast]

theorem modQ_neg {q v : ℕ} (h : v < q) : modQ q (-(v : ℤ)) = if v = 0 then 0 else q - v := by
  split
  · next hv => rw [hv, Nat.cast_zero, neg_zero, modQ, Int.zero_emod, Int.toNat_zero]
  · next hv =>
    rw [modQ, ← Int.add_emod_right, Int.emod_eq_of_lt (by omega) (by omega)]
    omega

/-- `Q` is odd, so a centred value lies in `[−(Q−1)/2, (Q−1)/2]` (R114). -/
theorem center_bounds {q v : ℕ} (hodd : q % 2 = 1) (h : v < q) :
    -((q : ℤ) - 1) ≤ 2 * center q v ∧ 2 * center q v ≤ (q : ℤ) - 1 := by
  rw [center]
  split <;> omega

/-- The active lanes of a `Q` or `N` register as a function of their index. -/
theorem State.qs_eq_map_range (s : State) (r : Reg) : s.qs r = (List.range s.n).map fun j => qOf (s.lane r j) := by
  rw [State.qs, State.lanes, List.map_map]
  rfl

theorem divisorCheck_zero {values : List ℕ} (h : 0 ∈ values) : divisorCheck values = some .divByZero :=
  if_pos (List.any_eq_true.mpr ⟨0, h, rfl⟩)

theorem divisorCheck_invertible {values : List ℕ} (h : 0 ∉ values) : divisorCheck values = none := by
  refine if_neg fun hany => h ?_
  obtain ⟨v, hv, hzero⟩ := List.any_eq_true.mp hany
  exact beq_iff_eq.mp hzero ▸ hv

theorem one_le_logn {s : State} (h : s.logn ≠ 0#4) : 1 ≤ s.logn.toNat :=
  Nat.one_le_iff_ne_zero.mpr fun h0 => h (BitVec.eq_of_toNat_eq h0)

/-- R102 for any inverses `v` of `n` and `w` of `psi_n` modulo `Q`. -/
theorem inttLane_eq_of_inverses {p : Params} (hp : p.WF) {logn v w : ℕ} (hv : v * 2 ^ logn % p.q = 1)
    (hw : w * rootOf p (2 ^ logn) % p.q = 1) (A : ℕ → ℕ) (j : ℕ) :
    inttLane p logn ((List.range (2 ^ logn)).map A) j =
      v * (∑ k ∈ Finset.range (2 ^ logn), A k * w ^ ((2 * k + 1) * j)) % p.q := by
  have : Fact p.q.Prime := ⟨hp.prime⟩
  have hlt := hp.lt_q
  refine eq_mod_of_cast_eq (Nat.mod_lt _ hp.prime.pos) ?_
  rw [inttLane_map_range_cast (by omega), inverseTransform, ← eq_inv_of_mul_eq_one_left (cast_mul_eq_one hv),
    ← eq_inv_of_mul_eq_one_left (cast_mul_eq_one hw)]
  simp only [Nat.cast_mul, Nat.cast_sum, Nat.cast_pow]

end Sys2Proof.Machine

namespace Sys2Proof.Safety

open Sys2Proof.Machine

section
variable {i : Instr} {s : State} {rd : Reg} {tag : Tag} {sources : List Reg} {admitted : List (List Tag)}
  {checks : List (Option PrauFault)} {commit : State → State} {g : ℕ → Lane}

/-- A command with admitted sources whose data checks pass writes the lanes it commits, given by their index. -/
theorem writesLanes_of_exec (hexec : exec i s = runCommand i s (needsN s :: tagCheck s sources admitted :: checks) commit)
    (hfault : s.fault = none) (hwf : WellFormed i = true) (hlogn : s.logn ≠ 0#4) (hwritten : ∀ ts ∈ admitted, Tag.e ∉ ts)
    (htags : (sources.map fun r => s.tags[r]) ∈ admitted) (hchecks : firstFault checks = none)
    (hcommit : commit s = s.commitLanes rd tag ((List.range s.n).map g)) :
    ∃ t, exec i s = .next t ∧ WritesLanes s t rd tag g := by
  refine ⟨_, exec_commits hexec hfault hwf ((firstFault_of_admitted hlogn hwritten htags).trans hchecks), ?_⟩
  rw [hcommit]
  exact writesLanes_commitLanes (by simp) fun j _ => by simp

/-- A zero among the divisor's NTT values is the fault of step 4 (R207). -/
theorem divByZero_of_exec {values : List ℕ}
    (hexec : exec i s = runCommand i s [needsN s, tagCheck s sources admitted, divisorCheck values] commit)
    (hfault : s.fault = none) (hwf : WellFormed i = true) (hlogn : s.logn ≠ 0#4) (hwritten : ∀ ts ∈ admitted, Tag.e ∉ ts)
    (htags : (sources.map fun r => s.tags[r]) ∈ admitted) (hzero : 0 ∈ values) : Faults i s .divByZero :=
  faults_of_firstFault hexec hfault hwf
    ((firstFault_of_admitted hlogn hwritten htags).trans ((firstFault_singleton _).trans (divisorCheck_zero hzero)))

end

theorem mem_admitted_single {a t : Tag} (h : t = a) : [t] ∈ [[a]] := by simp [h]

theorem mem_admitted_pair {a t t' : Tag} (h : t = a) (h' : t' = a) : [t, t'] ∈ [[a, a]] := by simp [h, h']

/-- Two sources with the tags of one of two admitted pairs. -/
theorem mem_admitted_pairs {a b t t' : Tag} (h : t = a ∧ t' = a ∨ t = b ∧ t' = b) : [t, t'] ∈ [[a, a], [b, b]] := by
  rcases h with ⟨rfl, rfl⟩ | ⟨rfl, rfl⟩ <;> simp

/-- Settles O23: the values of the machine's transform are the evaluations of R101. -/
theorem nttEvaluatesAtRoots : Obligations.NttEvaluatesAtRoots := by
  intro s rd rs1 hfault
  refine ⟨rfl, configAndTagFaults_of_exec (exec_ntt rd rs1 s) hfault rfl, fun hlogn htag => ?_⟩
  refine writesLanes_of_exec (exec_ntt rd rs1 s) hfault rfl hlogn (by decide) (mem_admitted_single htag) rfl ?_
  have hlanes := ntt_map_range Config.hw s.logn.toNat fun j => qOf (s.lane rs1 j)
  rw [s.qs_eq_map_range, State.n, Config.prau_params, hlanes, List.map_map]
  rfl

/-- Settles O24: the machine takes the inverses of `n` and `psi_n` by Fermat, and inverses modulo `Q` are unique. -/
theorem inttInterpolates : Obligations.InttInterpolates := by
  intro s rd rs1 hfault
  refine ⟨rfl, configAndTagFaults_of_exec (exec_intt rd rs1 s) hfault rfl, fun hlogn htag v w hv hw => ?_⟩
  refine writesLanes_of_exec (exec_intt rd rs1 s) hfault rfl hlogn (by decide) (mem_admitted_single htag) rfl ?_
  have hlanes := inttLane_eq_of_inverses Config.hw_wf hv hw fun k => qOf (s.lane rs1 k)
  rw [s.qs_eq_map_range, intt, List.map_map]
  exact congrArg _ (List.map_congr_left fun j _ => congrArg qLane (hlanes j))

/-- Settles O25: the machine's remainder of a sum that is not negative is the remainder of the naturals. -/
theorem addqAddsLanes : Obligations.AddqAddsLanes := by
  intro s rd rs1 rs2 hfault
  refine ⟨rfl, configAndTagFaults_of_exec (exec_addq rd rs1 rs2 s) hfault rfl, fun hlogn htags => ?_⟩
  refine writesLanes_of_exec (exec_addq rd rs1 rs2 s) hfault rfl hlogn (by decide) (mem_admitted_pairs htags) rfl ?_
  exact congrArg _ (List.map_congr_left fun j _ => congrArg qLane (modQ_natCast _ (_ + _)))

/-- Settles O26: the machine takes the mathematical remainder of the difference of the lanes. -/
theorem subqSubtractsLanes : Obligations.SubqSubtractsLanes := by
  intro s rd rs1 rs2 hfault
  refine ⟨rfl, configAndTagFaults_of_exec (exec_subq rd rs1 rs2 s) hfault rfl, fun hlogn htags => ?_⟩
  exact writesLanes_of_exec (exec_subq rd rs1 rs2 s) hfault rfl hlogn (by decide) (mem_admitted_pairs htags) rfl rfl

/-- Settles O27: the remainder of `−v` for a residue `v`. -/
theorem negqNegatesLanes : Obligations.NegqNegatesLanes := by
  intro s rd rs1 hfault
  refine ⟨rfl, configAndTagFaults_of_exec (exec_negq rd rs1 s) hfault rfl, fun hlogn htag hlanes => ?_⟩
  refine writesLanes_of_exec (exec_negq rd rs1 s) hfault rfl hlogn (by decide) (by simpa using htag) rfl ?_
  exact congrArg _ (List.map_congr_left fun j hj => congrArg qLane (modQ_neg (hlanes j (List.mem_range.mp hj))))

/-- Settles O28: the machine reduces the product of the lanes. -/
theorem mulnMultipliesLanes : Obligations.MulnMultipliesLanes := by
  intro s rd rs1 rs2 hfault
  refine ⟨rfl, configAndTagFaults_of_exec (exec_muln rd rs1 rs2 s) hfault rfl, fun hlogn htag1 htag2 => ?_⟩
  exact writesLanes_of_exec (exec_muln rd rs1 rs2 s) hfault rfl hlogn (by decide) (mem_admitted_pair htag1 htag2) rfl rfl

/-- Settles O29: a zero lane fails the divisor check; otherwise the machine multiplies by the inverse, which gives
the quotient. -/
theorem divnDividesLanes : Obligations.DivnDividesLanes := by
  intro s rd rs1 rs2 hfault
  refine ⟨rfl, configAndTagFaults_of_exec (exec_divn rd rs1 rs2 s) hfault rfl, fun hlogn htag1 htag2 => ?_⟩
  have hzero : 0 ∈ s.qs rs2 ↔ ∃ k < s.n, qOf (s.lane rs2 k) = 0 := by simp [s.qs_eq_map_range]
  refine ⟨fun hdivisor => ?_, fun hlanes => ?_⟩
  · exact divByZero_of_exec (exec_divn rd rs1 rs2 s) hfault rfl hlogn (by decide)
      (mem_admitted_pair htag1 htag2) (hzero.mpr hdivisor)
  · have hpass : 0 ∉ s.qs rs2 := fun h => by
      obtain ⟨k, hk, hlane⟩ := hzero.mp h
      exact (hlanes k hk).1.ne' hlane
    obtain ⟨t, hexec, hwrites⟩ := writesLanes_of_exec (exec_divn rd rs1 rs2 s) hfault rfl hlogn (by decide)
      (mem_admitted_pair htag1 htag2) ((firstFault_singleton _).trans (divisorCheck_invertible hpass)) rfl
    refine ⟨t, fun k => divMod Config.hw (qOf (s.lane rs1 k)) (qOf (s.lane rs2 k)), hexec, hwrites, fun k hk => ?_⟩
    obtain ⟨hpos, hlt⟩ := hlanes k hk
    exact ⟨divMod_lt Config.hw_wf _ _,
      (mulMod_eq_iff_eq_divMod Config.hw_wf _ (divMod_lt Config.hw_wf _ _) hpos.ne' hlt).mpr rfl⟩

/-- Settles O30: the product by way of the transform is the negacyclic convolution. -/
theorem mulqIsRingProduct : Obligations.MulqIsRingProduct := by
  intro s rd rs1 rs2 hfault hle
  refine ⟨rfl, configAndTagFaults_of_exec (exec_mulq rd rs1 rs2 s) hfault rfl, fun hlogn htag1 htag2 => ?_⟩
  refine writesLanes_of_exec (exec_mulq rd rs1 rs2 s) hfault rfl hlogn (by decide) (mem_admitted_pair htag1 htag2) rfl ?_
  have hproduct := mulRing_map_range Config.hw_wf (one_le_logn hlogn) hle
    (fun j => qOf (s.lane rs1 j)) fun j => qOf (s.lane rs2 j)
  rw [s.qs_eq_map_range, s.qs_eq_map_range, State.n, Config.prau_params, hproduct, List.map_map]
  rfl

/-- Settles O31: the machine's quotient is the one element whose product with the divisor is the dividend. -/
theorem divqIsRingQuotient : Obligations.DivqIsRingQuotient := by
  intro s rd rs1 rs2 hfault hle
  refine ⟨rfl, configAndTagFaults_of_exec (exec_divq rd rs1 rs2 s) hfault rfl, fun hlogn htag1 htag2 => ?_⟩
  have hzero : 0 ∈ ntt Config.hw s.logn.toNat (s.qs rs2) ↔
      ∃ k < s.n, evaluation Config.hw s.n (fun j => qOf (s.lane rs2 j)) k = 0 := by
    simp [s.qs_eq_map_range, State.n, ntt_map_range]
  refine ⟨fun hdivisor => ?_, fun hvalues => ?_⟩
  · exact divByZero_of_exec (exec_divq rd rs1 rs2 s) hfault rfl hlogn (by decide)
      (mem_admitted_pair htag1 htag2) (hzero.mpr hdivisor)
  · have hpass : 0 ∉ ntt Config.hw s.logn.toNat (s.qs rs2) := fun h => by
      obtain ⟨k, hk, hvalue⟩ := hzero.mp h
      exact hvalues k hk hvalue
    obtain ⟨c, hc, hlt, hquotient⟩ :=
      exists_ringQuotient (a := fun k => qOf (s.lane rs1 k)) Config.hw_wf (one_le_logn hlogn) hle hvalues
    have hcommit : divRing Config.hw s.logn.toNat (s.qs rs1) (s.qs rs2) = (List.range s.n).map c := by
      rw [s.qs_eq_map_range, s.qs_eq_map_range]
      exact hc
    obtain ⟨t, hexec, hwrites⟩ := writesLanes_of_exec (g := fun k => qLane (c k)) (exec_divq rd rs1 rs2 s) hfault rfl hlogn
      (by decide) (mem_admitted_pair htag1 htag2) ((firstFault_singleton _).trans (divisorCheck_invertible hpass))
      (by rw [Config.prau_params, hcommit, List.map_map]; rfl)
    exact ⟨t, c, hexec, hwrites, hlt, (hquotient c hlt).mpr fun _ _ => rfl, fun d hd => (hquotient d hd).mp⟩

/-- Settles O32: the machine takes the mathematical remainder of the signed lane. -/
theorem reduceTakesRemainders : Obligations.ReduceTakesRemainders := by
  intro s rd rs1 hfault
  refine ⟨rfl, configAndTagFaults_of_exec (exec_reduce rd rs1 s) hfault rfl, fun hlogn htag => ?_⟩
  exact writesLanes_of_exec (exec_reduce rd rs1 s) hfault rfl hlogn (by decide) (mem_admitted_single htag) rfl rfl

/-- Settles O33: the machine writes the centred value, which fits a `Z` lane and so reads back within its bounds. -/
theorem centerTakesCentredValues : Obligations.CenterTakesCentredValues := by
  intro s rd rs1 hfault
  refine ⟨rfl, configAndTagFaults_of_exec (exec_center rd rs1 s) hfault rfl, fun hlogn htag hlanes => ?_⟩
  obtain ⟨t, hexec, hwrites⟩ := writesLanes_of_exec (exec_center rd rs1 s) hfault rfl hlogn (by decide)
    (mem_admitted_single htag) rfl rfl
  refine ⟨t, hexec, hwrites, fun j hj => ?_⟩
  obtain ⟨hlo, hhi⟩ := center_bounds (q := Config.hw.q) rfl (hlanes j hj)
  have hq : Config.hw.q = 12289 := rfl
  obtain ⟨-, hlane, -⟩ := hwrites
  rw [hlane j hj, Config.prau_params, zOf_zLane ⟨by omega, by omega⟩]
  exact ⟨hlo, hhi⟩

end Sys2Proof.Safety
end

section
/-! Binary64 patterns (R9, R130): the three fields of a pattern, a pattern put together from its fields, and which magnitudes the
finite patterns have. -/

namespace Sys2Proof.Machine

/-! Fields. -/

theorem fpSign_eq_decide (x : F64) : fpSign x = decide (2 ^ 63 ≤ x.toNat) := BitVec.msb_eq_decide x

theorem fpExp_eq_div (x : F64) : fpExp x = x.toNat % 2 ^ 63 / 2 ^ 52 := by
  rw [fpExp, BitVec.extractLsb'_toNat, Nat.shiftRight_eq_div_pow]
  omega

theorem fpFrac_eq_mod (x : F64) : fpFrac x = x.toNat % 2 ^ 52 := by
  rw [fpFrac, BitVec.extractLsb'_toNat, Nat.shiftRight_zero]

theorem fpExp_lt (x : F64) : fpExp x < 2 ^ 11 := BitVec.isLt _

theorem fpFrac_lt (x : F64) : fpFrac x < 2 ^ 52 := BitVec.isLt _

theorem withSign_toNat (neg : Bool) {low : ℕ} (h : low < 2 ^ 63) :
    (withSign neg low).toNat = low + if neg then 2 ^ 63 else 0 := by
  rw [withSign, BitVec.toNat_ofNat, Nat.mod_eq_of_lt]
  split <;> omega

theorem withSign_zero (neg : Bool) : withSign neg 0 = if neg then 0x8000000000000000#64 else 0#64 := by cases neg <;> rfl

theorem fpSign_withSign (neg : Bool) {low : ℕ} (h : low < 2 ^ 63) : fpSign (withSign neg low) = neg := by
  rw [fpSign_eq_decide, withSign_toNat neg h]
  cases neg
  · exact decide_eq_false (not_le.mpr h)
  · exact decide_eq_true (Nat.le_add_left _ _)

theorem fpExp_withSign (neg : Bool) {low : ℕ} (h : low < 2 ^ 63) : fpExp (withSign neg low) = low / 2 ^ 52 := by
  rw [fpExp_eq_div, withSign_toNat neg h]
  split <;> omega

theorem fpFrac_withSign (neg : Bool) {low : ℕ} (h : low < 2 ^ 63) : fpFrac (withSign neg low) = low % 2 ^ 52 := by
  rw [fpFrac_eq_mod, withSign_toNat neg h]
  split <;> omega

/-- Fraction bit 0 is the parity of the lower 63 bits. -/
theorem getLsbD_zero_withSign (neg : Bool) {low : ℕ} (h : low < 2 ^ 63) :
    (withSign neg low).getLsbD 0 = decide (low % 2 = 1) := by
  rw [BitVec.getLsbD, withSign_toNat neg h, Nat.testBit_zero, decide_eq_decide]
  split <;> omega

/-- A pattern is its three fields. -/
theorem withSign_fields (x : F64) : withSign (fpSign x) (fpExp x * 2 ^ 52 + fpFrac x) = x := by
  apply BitVec.eq_of_toNat_eq
  have hx := x.isLt
  rw [withSign_toNat _ (by have := fpExp_lt x; have := fpFrac_lt x; omega), fpSign_eq_decide, fpExp_eq_div, fpFrac_eq_mod]
  simp only [decide_eq_true_eq]
  split <;> omega

/-! Negation (R131). -/

@[simp] theorem fpSign_fneg (x : F64) : fpSign (fneg x) = !fpSign x := by
  simp [fpSign, fneg]

@[simp] theorem fpExp_fneg (x : F64) : fpExp (fneg x) = fpExp x := by
  simp [fpExp, fneg, BitVec.extractLsb'_xor]

@[simp] theorem fpFrac_fneg (x : F64) : fpFrac (fneg x) = fpFrac x := by
  simp [fpFrac, fneg, BitVec.extractLsb'_xor]

@[simp] theorem isNan_fneg (x : F64) : isNan (fneg x) = isNan x := by simp only [isNan, fpExp_fneg, fpFrac_fneg]

@[simp] theorem isInf_fneg (x : F64) : isInf (fneg x) = isInf x := by simp only [isInf, fpExp_fneg, fpFrac_fneg]

@[simp] theorem isFinite_fneg (x : F64) : isFinite (fneg x) = isFinite x := by simp only [isFinite, fpExp_fneg]

@[simp] theorem scaled_fneg (x : F64) : scaled (fneg x) = -scaled x := by
  simp only [scaled, magnitude, fpSign_fneg, fpExp_fneg, fpFrac_fneg]
  cases fpSign x <;> simp

theorem fneg_eq_xor (x : F64) : fneg x = x ^^^ 0x8000000000000000#64 := rfl

/-! Classes. -/

theorem isInf_withSign_infBits (neg : Bool) : isInf (withSign neg infBits) = true := by cases neg <;> decide

theorem fpSign_withSign_infBits (neg : Bool) : fpSign (withSign neg infBits) = neg := by cases neg <;> decide

theorem isNan_eq_false_of_isFinite {x : F64} (h : isFinite x = true) : isNan x = false := by simp_all [isNan, isFinite]

theorem isInf_eq_false_of_isFinite {x : F64} (h : isFinite x = true) : isInf x = false := by simp_all [isInf, isFinite]

theorem isNan_eq_false_of_isInf {x : F64} (h : isInf x = true) : isNan x = false := by simp_all [isInf, isNan]

/-- A pattern that is no NaN stands for a number or is an infinity. -/
theorem isInf_or_isFinite {x : F64} (h : isNan x = false) : isInf x = true ∨ isFinite x = true := by
  by_cases hexp : fpExp x = 2047
  · exact .inl (by simp_all [isNan, isInf])
  · exact .inr (bne_iff_ne.mpr hexp)

/-! Signs and magnitudes. -/

/-- The factor that a sign bit stands for. -/
def signFactor (neg : Bool) : ℤ := if neg then -1 else 1

theorem abs_signFactor (neg : Bool) : |signFactor neg| = 1 := by cases neg <;> rfl

theorem natAbs_signFactor (neg : Bool) : (signFactor neg).natAbs = 1 := by cases neg <;> rfl

theorem signFactor_mul_self (neg : Bool) : signFactor neg * signFactor neg = 1 := by cases neg <;> rfl

theorem signFactor_bne (a b : Bool) : signFactor (a != b) = signFactor a * signFactor b := by cases a <;> cases b <;> rfl

theorem signFactor_decide_mul (x : ℤ) : signFactor (decide (x < 0)) * |x| = x := by
  rcases lt_or_ge x 0 with hneg | hpos
  · rw [decide_eq_true hneg, abs_of_neg hneg, signFactor, if_pos rfl, neg_one_mul, neg_neg]
  · rw [decide_eq_false (not_lt.mpr hpos), abs_of_nonneg hpos, signFactor, if_neg Bool.false_ne_true, one_mul]

theorem signFactor_mul_emod_two (neg : Bool) (k : ℕ) : (signFactor neg * k) % 2 = 0 ↔ k % 2 = 0 := by
  cases neg <;> simp [signFactor] <;> omega

theorem scaled_eq_signFactor_mul (x : F64) : scaled x = signFactor (fpSign x) * magnitude x := by
  rw [scaled, signFactor]
  split <;> simp

theorem natAbs_scaled (x : F64) : (scaled x).natAbs = magnitude x := by
  rw [scaled]
  split <;> simp

theorem magnitude_ne_zero_of_isInf {x : F64} (h : isInf x = true) : magnitude x ≠ 0 := by
  have hexp : fpExp x = 2047 := by simp_all [isInf]
  rw [magnitude, if_neg (by omega)]
  positivity

/-- The magnitude of a pattern whose lower bits are a significand of up to 53 bits added to `e` steps of the exponent: a carry out
of the significand moves the exponent on by itself. -/
theorem magnitude_withSign (neg : Bool) {e q : ℕ} (hq : q ≤ 2 ^ 53) (hnormal : e = 0 ∨ 2 ^ 52 ≤ q)
    (hlt : e * 2 ^ 52 + q < infBits) : magnitude (withSign neg (e * 2 ^ 52 + q)) = q * 2 ^ e := by
  have hlow : e * 2 ^ 52 + q < 2 ^ 63 := hlt.trans (by decide)
  rw [magnitude, fpExp_withSign neg hlow, fpFrac_withSign neg hlow]
  obtain hsub | hnorm | rfl : q < 2 ^ 52 ∨ 2 ^ 52 ≤ q ∧ q < 2 ^ 53 ∨ q = 2 ^ 53 := by omega
  · obtain rfl : e = 0 := by omega
    rw [if_pos (by omega), pow_zero]
    omega
  · rw [if_neg (by omega), show (e * 2 ^ 52 + q) / 2 ^ 52 - 1 = e by omega,
      show 2 ^ 52 + (e * 2 ^ 52 + q) % 2 ^ 52 = q by omega]
  · rw [if_neg (by omega), show (e * 2 ^ 52 + 2 ^ 53) / 2 ^ 52 - 1 = e + 1 by omega,
      show (e * 2 ^ 52 + 2 ^ 53) % 2 ^ 52 = 0 by omega, pow_succ 2 e]
    ring

/-- Above `2^(52+e)` the finite magnitudes are multiples of `2^e`. -/
theorem two_pow_dvd_magnitude_or_lt (x : F64) (e : ℕ) : 2 ^ e ∣ magnitude x ∨ magnitude x < 2 ^ 52 * 2 ^ e := by
  have hfrac := fpFrac_lt x
  rw [magnitude]
  split
  · exact .inr (hfrac.trans_le (Nat.le_mul_of_pos_right _ (Nat.two_pow_pos e)))
  · rcases Nat.lt_or_ge (fpExp x - 1) e with hlt | hge
    · refine .inr ?_
      calc (2 ^ 52 + fpFrac x) * 2 ^ (fpExp x - 1)
        _ < 2 ^ 53 * 2 ^ (fpExp x - 1) := Nat.mul_lt_mul_of_pos_right (by omega) (Nat.two_pow_pos _)
        _ ≤ 2 ^ 52 * 2 ^ e := by
          rw [← pow_add, ← pow_add]
          exact Nat.pow_le_pow_right (by decide) (by omega)
    · exact .inl (Dvd.dvd.mul_left (pow_dvd_pow 2 hge) _)

/-- The largest finite magnitude. -/
theorem magnitude_le_of_isFinite {x : F64} (h : isFinite x = true) : magnitude x ≤ (2 ^ 54 - 2) * 2 ^ 2044 := by
  have hfrac := fpFrac_lt x
  have hexp : fpExp x - 1 ≤ 2044 + 1 := by
    have := fpExp_lt x
    have hfinite : fpExp x ≠ 2047 := bne_iff_ne.mp h
    omega
  rw [magnitude]
  split
  · exact (show fpFrac x ≤ 2 ^ 54 - 2 by omega).trans (Nat.le_mul_of_pos_right _ (by positivity))
  · have hpow : (2 : ℕ) ^ (fpExp x - 1) ≤ 2 ^ (2044 + 1) := by gcongr; decide
    rw [pow_succ] at hpow
    calc (2 ^ 52 + fpFrac x) * 2 ^ (fpExp x - 1)
      _ ≤ (2 ^ 53 - 1) * (2 ^ 2044 * 2) := Nat.mul_le_mul (by omega) hpow
      _ = (2 ^ 54 - 2) * 2 ^ 2044 := by omega

end Sys2Proof.Machine
end

section
/-! Rounding (R9, R131, R143): `roundShift` gives the nearest integer, `roundTo64` the nearest pattern or an infinity. -/

namespace Sys2Proof.Machine

/-- R9, R143: the nearest integer, the even one of two. -/
theorem roundShift_nearest (m d : ℕ) :
    2 * |(roundShift m d : ℤ) * 2 ^ d - m| < 2 ^ d ∨
      2 * |(roundShift m d : ℤ) * 2 ^ d - m| = 2 ^ d ∧ roundShift m d % 2 = 0 := by
  have hdiv := Nat.div_add_mod' m (2 ^ d)
  have hrem := Nat.mod_lt m (Nat.two_pow_pos d)
  have hcast : (2 : ℤ) ^ d = (2 ^ d : ℕ) := by push_cast; rfl
  rw [hcast, roundShift]
  generalize m / 2 ^ d = q at *
  generalize m % 2 ^ d = r at *
  generalize 2 ^ d = D at *
  have hdown : |(q : ℤ) * D - m| = r := by
    rw [← hdiv, abs_sub_comm]
    simp
  have hup : |((q + 1 : ℕ) : ℤ) * D - m| = D - r := by
    rw [← hdiv, abs_of_nonneg] <;> push_cast <;> linarith
  split_ifs with hlt hgt
  · rw [hdown]
    omega
  · rw [hup]
    omega
  · obtain heven | hodd : q % 2 = 0 ∨ q % 2 = 1 := by omega
    · rw [heven, Nat.add_zero, hdown]
      omega
    · rw [hodd, hup]
      omega

theorem two_mul_roundShift_bounds (m d : ℕ) :
    2 * roundShift m d * 2 ^ d ≤ 2 * m + 2 ^ d ∧ 2 * m ≤ (2 * roundShift m d + 1) * 2 ^ d := by
  have habs : 2 * |(roundShift m d : ℤ) * 2 ^ d - m| ≤ 2 ^ d := (roundShift_nearest m d).elim le_of_lt fun h => h.1.le
  obtain ⟨hlo, hhi⟩ := abs_le.mp (show |2 * ((roundShift m d : ℤ) * 2 ^ d - m)| ≤ 2 ^ d by simpa [abs_mul] using habs)
  zify
  constructor <;> linarith

theorem le_roundShift {a m d : ℕ} (h : a * 2 ^ d ≤ m) : a ≤ roundShift m d := by
  have hle : 2 * a * 2 ^ d ≤ (2 * roundShift m d + 1) * 2 ^ d := by linarith [(two_mul_roundShift_bounds m d).2]
  have := Nat.le_of_mul_le_mul_right hle (Nat.two_pow_pos d)
  omega

theorem roundShift_le {a m d : ℕ} (h : m ≤ a * 2 ^ d) : roundShift m d ≤ a := by
  have hle : 2 * roundShift m d * 2 ^ d ≤ (2 * a + 1) * 2 ^ d := by linarith [(two_mul_roundShift_bounds m d).1]
  have := Nat.le_of_mul_le_mul_right hle (Nat.two_pow_pos d)
  omega

/-- A multiple of `2^d` is not rounded. -/
theorem roundShift_mul (a d : ℕ) : roundShift (a * 2 ^ d) d = a := le_antisymm (roundShift_le le_rfl) (le_roundShift le_rfl)

/-- Half way to an even number is rounded up to it. -/
theorem le_roundShift_of_even {a m d : ℕ} (ha : a % 2 = 0) (h : (2 * a - 1) * 2 ^ d ≤ 2 * m) : a ≤ roundShift m d := by
  by_contra! hlt
  have hle : (2 * a - 1) * 2 ^ d ≤ (2 * roundShift m d + 1) * 2 ^ d := h.trans (two_mul_roundShift_bounds m d).2
  have heq : 2 * a - 1 = 2 * roundShift m d + 1 := by
    have := Nat.le_of_mul_le_mul_right hle (Nat.two_pow_pos d)
    omega
  have htie : 2 * m = (2 * roundShift m d + 1) * 2 ^ d := le_antisymm (two_mul_roundShift_bounds m d).2 (heq ▸ h)
  have habs : 2 * |(roundShift m d : ℤ) * 2 ^ d - m| = 2 ^ d := by
    zify at htie
    rw [abs_sub_comm, abs_of_nonneg (by linarith [pow_pos (two_pos (α := ℤ)) d])]
    linarith
  rcases roundShift_nearest m d with hlt | ⟨-, heven⟩ <;> omega

/-- No other integer is as near, but the other one of two. -/
theorem roundShift_nearest_of_ne (m d : ℕ) {k : ℤ} (hk : k ≠ roundShift m d) :
    |(roundShift m d : ℤ) * 2 ^ d - m| < |k * 2 ^ d - m| ∨
      |(roundShift m d : ℤ) * 2 ^ d - m| = |k * 2 ^ d - m| ∧ roundShift m d % 2 = 0 := by
  have hstep : (2 : ℤ) ^ d ≤ |k * 2 ^ d - roundShift m d * 2 ^ d| := by
    rw [← sub_mul, abs_mul, abs_of_pos (by positivity : (0 : ℤ) < 2 ^ d)]
    exact le_mul_of_one_le_left (by positivity) (Int.one_le_abs (sub_ne_zero.mpr hk))
  have htri := abs_sub_le (k * 2 ^ d) (m : ℤ) (roundShift m d * 2 ^ d)
  rw [abs_sub_comm (m : ℤ)] at htri
  rcases roundShift_nearest m d with hlt | ⟨htie, heven⟩
  · exact .inl (by linarith)
  · rcases lt_or_eq_of_le (show |(roundShift m d : ℤ) * 2 ^ d - m| ≤ |k * 2 ^ d - m| by linarith) with h | h
    · exact .inl h
    · exact .inr ⟨h, heven⟩

theorem roundShift_abs_le (m d : ℕ) (k : ℤ) : |(roundShift m d : ℤ) * 2 ^ d - m| ≤ |k * 2 ^ d - m| := by
  by_cases hk : k = roundShift m d
  · rw [hk]
  · exact (roundShift_nearest_of_ne m d hk).elim le_of_lt fun h => h.1.le

/-! The unit in the last place. -/

/-- `roundTo64` rounds a magnitude `m · 2^(−1074−sh)` to a multiple of `2^(lastPlace m sh) · 2^(−1074−sh)`. -/
def lastPlace (m sh : ℕ) : ℕ := max (Nat.log2 m - 52) sh

theorem le_lastPlace (m sh : ℕ) : sh ≤ lastPlace m sh := le_max_right _ _

theorem two_pow_lastPlace_eq (m sh : ℕ) : (2 : ℤ) ^ lastPlace m sh = 2 ^ (lastPlace m sh - sh) * 2 ^ sh := by
  rw [← pow_add, Nat.sub_add_cancel (le_lastPlace m sh)]

theorem lt_two_pow_lastPlace (m sh : ℕ) : m < 2 ^ 53 * 2 ^ lastPlace m sh := by
  rw [← pow_add]
  refine Nat.lt_log2_self.trans_le (Nat.pow_le_pow_right (by decide) ?_)
  have : Nat.log2 m - 52 ≤ lastPlace m sh := le_max_left _ _
  omega

/-- Above the subnormal range the significand has all its 53 bits. -/
theorem two_pow_lastPlace_le {m sh : ℕ} (h : sh < lastPlace m sh) : 2 ^ 52 * 2 ^ lastPlace m sh ≤ m := by
  have hplace : lastPlace m sh = Nat.log2 m - 52 := by
    unfold lastPlace at h ⊢
    omega
  have hne : m ≠ 0 := by
    rintro rfl
    rw [Nat.log2_zero] at hplace
    omega
  rw [← pow_add, show 52 + lastPlace m sh = Nat.log2 m by omega]
  exact Nat.log2_self_le hne

theorem lastPlace_le {m k sh : ℕ} (hm : m < 2 ^ 53 * 2 ^ k) (hk : sh ≤ k) : lastPlace m sh ≤ k := by
  by_contra! h
  have hle := (two_pow_lastPlace_le (hk.trans_lt h)).trans_lt hm
  have hpow : (2 : ℕ) ^ (k + 1) ≤ 2 ^ lastPlace m sh := Nat.pow_le_pow_right (by decide) h
  rw [pow_succ] at hpow
  omega

/-- The significand that `roundTo64` puts into the pattern. -/
theorem roundShift_lastPlace_bounds (m sh : ℕ) : roundShift m (lastPlace m sh) ≤ 2 ^ 53 ∧
    (lastPlace m sh - sh = 0 ∨ 2 ^ 52 ≤ roundShift m (lastPlace m sh)) := by
  refine ⟨roundShift_le (lt_two_pow_lastPlace m sh).le, or_iff_not_imp_left.mpr fun h => ?_⟩
  exact le_roundShift (two_pow_lastPlace_le (by omega))

/-- The lower bits of the rounded pattern reach those of an infinity from the middle between the largest finite value and `2^1024`
on. -/
theorem infBits_le_iff (m sh : ℕ) : infBits ≤ (lastPlace m sh - sh) * 2 ^ 52 + roundShift m (lastPlace m sh) ↔
    (2 ^ 54 - 1) * 2 ^ (2044 + sh) ≤ m := by
  obtain ⟨hmax, hmin⟩ := roundShift_lastPlace_bounds m sh
  have hle := le_lastPlace m sh
  have hinf : infBits = 2047 * 2 ^ 52 := rfl
  obtain hlow | hmid | hhigh :
    lastPlace m sh < 2045 + sh ∨ lastPlace m sh = 2045 + sh ∨ 2046 + sh ≤ lastPlace m sh := by omega
  · have hpow : (2 : ℕ) ^ lastPlace m sh ≤ 2 ^ (2044 + sh) := Nat.pow_le_pow_right (by decide) (by omega)
    have hm := lt_two_pow_lastPlace m sh
    constructor <;> omega
  · have hpow : (2 : ℕ) ^ lastPlace m sh = 2 * 2 ^ (2044 + sh) := by
      rw [hmid, show 2045 + sh = 2044 + sh + 1 by ring, pow_succ, mul_comm]
    have hbounds := two_mul_roundShift_bounds m (lastPlace m sh)
    constructor
    · intro h
      have : roundShift m (lastPlace m sh) = 2 ^ 53 := by omega
      rw [this, hpow] at hbounds
      omega
    · intro h
      have := le_roundShift_of_even (a := 2 ^ 53) (d := lastPlace m sh) (m := m) (by decide) (by omega)
      omega
  · have hpow : (2 : ℕ) ^ (2044 + sh + 2) ≤ 2 ^ lastPlace m sh := Nat.pow_le_pow_right (by decide) (by omega)
    rw [pow_succ, pow_succ] at hpow
    have hm := two_pow_lastPlace_le (m := m) (sh := sh) (by omega)
    constructor <;> omega

/-! The rounded pattern. -/

theorem roundTo64_eq (neg : Bool) (m sh : ℕ) : roundTo64 neg m sh =
    withSign neg (min ((lastPlace m sh - sh) * 2 ^ 52 + roundShift m (lastPlace m sh)) infBits) := rfl

theorem fpSign_roundTo64 (neg : Bool) (m sh : ℕ) : fpSign (roundTo64 neg m sh) = neg :=
  fpSign_withSign neg ((min_le_right _ _).trans_lt (by decide))

theorem roundTo64_outOfRange (neg : Bool) {m sh : ℕ} (h : (2 ^ 54 - 1) * 2 ^ (2044 + sh) ≤ m) :
    roundTo64 neg m sh = withSign neg infBits := by
  rw [roundTo64_eq, min_eq_right ((infBits_le_iff m sh).mpr h)]

theorem roundTo64_zero (neg : Bool) (sh : ℕ) : roundTo64 neg 0 sh = withSign neg 0 := by
  have hplace : lastPlace 0 sh = sh := max_eq_right (Nat.zero_le sh)
  rw [roundTo64_eq, hplace, Nat.sub_self, show roundShift 0 sh = 0 by simpa using roundShift_mul 0 sh]
  rfl

section
variable (neg : Bool) {m sh : ℕ} (h : m < (2 ^ 54 - 1) * 2 ^ (2044 + sh))
include h

theorem roundTo64_lt_infBits : (lastPlace m sh - sh) * 2 ^ 52 + roundShift m (lastPlace m sh) < infBits :=
  not_le.mp (mt (infBits_le_iff m sh).mp (not_le.mpr h))

theorem roundTo64_inRange :
    roundTo64 neg m sh = withSign neg ((lastPlace m sh - sh) * 2 ^ 52 + roundShift m (lastPlace m sh)) := by
  rw [roundTo64_eq, min_eq_left (roundTo64_lt_infBits h).le]

theorem isFinite_roundTo64 : isFinite (roundTo64 neg m sh) = true := by
  have hlt := roundTo64_lt_infBits h
  have hinf : infBits = 2047 * 2 ^ 52 := rfl
  rw [roundTo64_inRange neg h, isFinite, fpExp_withSign neg (by omega), bne_iff_ne]
  omega

theorem magnitude_roundTo64 :
    magnitude (roundTo64 neg m sh) = roundShift m (lastPlace m sh) * 2 ^ (lastPlace m sh - sh) := by
  obtain ⟨hmax, hnormal⟩ := roundShift_lastPlace_bounds m sh
  rw [roundTo64_inRange neg h, magnitude_withSign neg hmax hnormal (roundTo64_lt_infBits h)]

theorem getLsbD_zero_roundTo64 :
    (roundTo64 neg m sh).getLsbD 0 = decide (roundShift m (lastPlace m sh) % 2 = 1) := by
  have hlt := (roundTo64_lt_infBits h).trans (by decide : infBits < 2 ^ 63)
  rw [roundTo64_inRange neg h, getLsbD_zero_withSign neg hlt, decide_eq_decide]
  omega

end

/-- A magnitude with at most 53 significant bits, the last not below 2^-1074, is not rounded. -/
theorem magnitude_roundTo64_mul (neg : Bool) {c k sh : ℕ} (hc : c < 2 ^ 53) (hk : sh ≤ k)
    (h : c * 2 ^ k < (2 ^ 54 - 1) * 2 ^ (2044 + sh)) : magnitude (roundTo64 neg (c * 2 ^ k) sh) = c * 2 ^ (k - sh) := by
  have hle := lastPlace_le (Nat.mul_lt_mul_of_pos_right hc (Nat.two_pow_pos k)) hk
  have hsh := le_lastPlace (c * 2 ^ k) sh
  rw [magnitude_roundTo64 neg h]
  generalize lastPlace (c * 2 ^ k) sh = d at *
  have hmultiple : c * 2 ^ k = c * 2 ^ (k - d) * 2 ^ d := by rw [mul_assoc, ← pow_add, Nat.sub_add_cancel hle]
  rw [hmultiple, roundShift_mul, mul_assoc, ← pow_add, Nat.sub_add_sub_cancel hle hsh]

end Sys2Proof.Machine

namespace Sys2Proof.Safety

open Sys2Proof.Machine

theorem outOfRange_iff {t : ℤ} {sh : ℕ} : OutOfRange t sh ↔ (2 ^ 54 - 1) * 2 ^ (2044 + sh) ≤ t.natAbs := by
  rw [OutOfRange, Int.abs_eq_natAbs, ← Int.ofNat_le]
  push_cast
  rfl

/-- The rounded magnitude is nearest among the magnitudes of the finite patterns, of either sign: those that are multiples of the
last place by the rounding of integers, those below the range of the significand because they are farther than its lower end. -/
theorem roundShift_nearest_magnitude (m sh : ℕ) {Y : ℤ}
    (hY : 2 ^ (lastPlace m sh - sh) ∣ Y.natAbs ∨ Y.natAbs < 2 ^ 52 * 2 ^ (lastPlace m sh - sh)) :
    |(roundShift m (lastPlace m sh) : ℤ) * 2 ^ lastPlace m sh - m| < |Y * 2 ^ sh - m| ∨
      |(roundShift m (lastPlace m sh) : ℤ) * 2 ^ lastPlace m sh - m| = |Y * 2 ^ sh - m| ∧
        (Y * 2 ^ sh = roundShift m (lastPlace m sh) * 2 ^ lastPlace m sh ∨ roundShift m (lastPlace m sh) % 2 = 0) := by
  obtain hdvd | ⟨hplace, hsmall⟩ : 2 ^ (lastPlace m sh - sh) ∣ Y.natAbs ∨
      sh < lastPlace m sh ∧ Y.natAbs < 2 ^ 52 * 2 ^ (lastPlace m sh - sh) := by
    rcases Nat.eq_zero_or_pos (lastPlace m sh - sh) with hzero | hpos
    · simp [hzero]
    · exact hY.imp_right fun h => ⟨Nat.lt_of_sub_pos hpos, h⟩
  · obtain ⟨k, rfl⟩ : (2 : ℤ) ^ (lastPlace m sh - sh) ∣ Y := by
      simpa using Int.natCast_dvd.mpr hdvd
    rw [show 2 ^ (lastPlace m sh - sh) * k * 2 ^ sh = k * (2 : ℤ) ^ lastPlace m sh by rw [two_pow_lastPlace_eq]; ring]
    by_cases hk : k = roundShift m (lastPlace m sh)
    · exact .inr ⟨by rw [hk], .inl (by rw [hk])⟩
    · exact (roundShift_nearest_of_ne m _ hk).imp_right fun h => ⟨h.1, .inr h.2⟩
  · refine .inl ((roundShift_abs_le m _ (2 ^ 52)).trans_lt ?_)
    have hm : (2 : ℤ) ^ 52 * 2 ^ lastPlace m sh ≤ m := by exact_mod_cast two_pow_lastPlace_le hplace
    have hYm : Y * 2 ^ sh < 2 ^ 52 * 2 ^ lastPlace m sh := by
      rw [two_pow_lastPlace_eq, ← mul_assoc]
      exact mul_lt_mul_of_pos_right (Int.le_natAbs.trans_lt (by exact_mod_cast hsmall)) (by positivity)
    rw [abs_sub_comm, abs_of_nonneg (sub_nonneg.mpr hm), abs_sub_comm, abs_of_pos (by linarith)]
    linarith

theorem scaled_roundTo64 (neg : Bool) {m sh : ℕ} (h : m < (2 ^ 54 - 1) * 2 ^ (2044 + sh)) :
    scaled (roundTo64 neg m sh) * 2 ^ sh = signFactor neg * (roundShift m (lastPlace m sh) * 2 ^ lastPlace m sh) := by
  rw [scaled_eq_signFactor_mul, fpSign_roundTo64, magnitude_roundTo64 neg h, two_pow_lastPlace_eq]
  push_cast
  ring

theorem abs_signFactor_mul_sub (neg : Bool) (a b : ℤ) : |signFactor neg * a - signFactor neg * b| = |a - b| := by
  rw [← mul_sub, abs_mul, abs_signFactor, one_mul]

/-- R9, R131: in range the rounded pattern is the nearest one, ties to the even one. -/
theorem nearestPattern_roundTo64 (neg : Bool) {m sh : ℕ} (h : m < (2 ^ 54 - 1) * 2 ^ (2044 + sh)) :
    NearestPattern (roundTo64 neg m sh) (signFactor neg * m) sh := by
  refine ⟨isFinite_roundTo64 neg h, fun y _ => ?_⟩
  have hvalue : (signFactor neg * scaled y).natAbs = magnitude y := by
    rw [Int.natAbs_mul, natAbs_scaled, natAbs_signFactor, one_mul]
  have hy : scaled y * 2 ^ sh = signFactor neg * (signFactor neg * scaled y * 2 ^ sh) := by
    rw [← mul_assoc, ← mul_assoc, signFactor_mul_self, one_mul]
  have hnearest := roundShift_nearest_magnitude m sh (Y := signFactor neg * scaled y)
    (hvalue ▸ two_pow_dvd_magnitude_or_lt y _)
  rw [scaled_roundTo64 neg h, hy, abs_signFactor_mul_sub, abs_signFactor_mul_sub, getLsbD_zero_roundTo64 neg h]
  refine hnearest.imp_right (And.imp_right (Or.imp (fun heq => ?_) fun heven => by simp [heven]))
  rw [heq, ← scaled_roundTo64 neg h] at hy
  exact mul_right_cancel₀ (by positivity) hy

end Sys2Proof.Safety
end

section
/-! The elementary operations (R131, R132, R143). -/

namespace Sys2Proof.Machine

/-- The sign of a sum: that of its value, for a zero sum set only when both operands are negative (log 18). -/
def sumSign (a b : F64) : Bool :=
  if scaled a + scaled b = 0 then fpSign a && fpSign b else decide (scaled a + scaled b < 0)

/-- R131: a sum of finite patterns is the exact sum, rounded once. -/
theorem fadd_finite (nan : F64) {a b : F64} (ha : isFinite a = true) (hb : isFinite b = true) :
    fadd nan a b = roundTo64 (sumSign a b) (scaled a + scaled b).natAbs 0 := by
  simp only [fadd, isNan_eq_false_of_isFinite, isInf_eq_false_of_isFinite, ha, hb, Bool.or_false, Bool.false_eq_true, if_false]
  rw [sumSign]
  split
  · next h => rw [h, Int.natAbs_zero, roundTo64_zero]
  · rfl

theorem signFactor_sumSign_mul (a b : F64) :
    signFactor (sumSign a b) * (scaled a + scaled b).natAbs = scaled a + scaled b := by
  rw [sumSign, Int.natCast_natAbs]
  split
  · next hzero => rw [hzero, abs_zero, mul_zero]
  · exact signFactor_decide_mul _

/-- R131: a product of finite patterns is the exact product, rounded once. -/
theorem fmul_finite (nan : F64) {a b : F64} (ha : isFinite a = true) (hb : isFinite b = true) :
    fmul nan a b = roundTo64 (fpSign a != fpSign b) (magnitude a * magnitude b) 1074 := by
  simp only [fmul, isNan_eq_false_of_isFinite, isInf_eq_false_of_isFinite, ha, hb, Bool.or_false, Bool.false_eq_true, if_false]
  split
  · next h => rw [h, roundTo64_zero]
  · rfl

theorem signFactor_bne_mul (a b : F64) :
    signFactor (fpSign a != fpSign b) * (magnitude a * magnitude b : ℕ) = scaled a * scaled b := by
  rw [signFactor_bne, scaled_eq_signFactor_mul a, scaled_eq_signFactor_mul b]
  push_cast
  ring

end Sys2Proof.Machine

namespace Sys2Proof.Safety

open Sys2Proof.Machine

theorem natAbs_lt_of_not_outOfRange {t : ℤ} {sh : ℕ} (h : ¬ OutOfRange t sh) :
    t.natAbs < (2 ^ 54 - 1) * 2 ^ (2044 + sh) :=
  not_le.mp (mt outOfRange_iff.mpr h)

/-- R131: in range a sum is rounded to the nearest pattern. -/
theorem nearestPattern_fadd (nan : F64) {a b : F64} (ha : isFinite a = true) (hb : isFinite b = true)
    (h : ¬ OutOfRange (scaled a + scaled b) 0) : NearestPattern (fadd nan a b) (scaled a + scaled b) 0 := by
  have hnearest := nearestPattern_roundTo64 (sumSign a b) (natAbs_lt_of_not_outOfRange h)
  rwa [signFactor_sumSign_mul, ← fadd_finite nan ha hb] at hnearest

/-- R131, log 18: out of range a sum is the infinity of its sign. -/
theorem fadd_outOfRange (nan : F64) {a b : F64} (ha : isFinite a = true) (hb : isFinite b = true)
    (h : OutOfRange (scaled a + scaled b) 0) : isInf (fadd nan a b) = true ∧
      fpSign (fadd nan a b) = decide (scaled a + scaled b < 0) := by
  have hrange := outOfRange_iff.mp h
  have hne : scaled a + scaled b ≠ 0 := by
    intro hzero
    rw [hzero, Int.natAbs_zero] at hrange
    exact absurd hrange (not_le.mpr (by positivity))
  rw [fadd_finite nan ha hb, roundTo64_outOfRange _ hrange, sumSign, if_neg hne]
  exact ⟨isInf_withSign_infBits _, fpSign_withSign_infBits _⟩

/-- R131, log 18: a zero sum is -0.0 only when both operands are negative. -/
theorem fadd_eq_zero (nan : F64) {a b : F64} (ha : isFinite a = true) (hb : isFinite b = true)
    (h : scaled a + scaled b = 0) :
    fadd nan a b = if fpSign a && fpSign b then 0x8000000000000000#64 else 0#64 := by
  rw [fadd_finite nan ha hb, h, Int.natAbs_zero, roundTo64_zero, sumSign, if_pos h]
  exact withSign_zero _

/-- Settles O55: a sum is rounded once from the exact sum, and a difference is the sum with the negated pattern. -/
theorem sumsRoundToNearestEven : Obligations.SumsRoundToNearestEven := by
  intro nan a b ha hb
  have hb' : isFinite (fneg b) = true := (isFinite_fneg b).trans hb
  have hdifference : scaled a - scaled b = scaled a + scaled (fneg b) := by rw [scaled_fneg, sub_eq_add_neg]
  rw [hdifference, ← fpSign_fneg]
  exact ⟨nearestPattern_fadd nan ha hb, fadd_outOfRange nan ha hb, fadd_eq_zero nan ha hb,
    nearestPattern_fadd nan ha hb', fadd_outOfRange nan ha hb', fadd_eq_zero nan ha hb'⟩

/-- Settles O56: a product is rounded once from the exact product of the magnitudes, with the sign of the product. -/
theorem productsRoundToNearestEven : Obligations.ProductsRoundToNearestEven := by
  intro nan a b ha hb
  have hmagnitude : (scaled a * scaled b).natAbs = magnitude a * magnitude b := by
    rw [Int.natAbs_mul, natAbs_scaled, natAbs_scaled]
  rw [fmul_finite nan ha hb, fpSign_roundTo64]
  refine ⟨fun h => ?_, fun h => ?_, rfl⟩
  · have hrange := natAbs_lt_of_not_outOfRange h
    rw [hmagnitude] at hrange
    rw [← signFactor_bne_mul]
    exact nearestPattern_roundTo64 _ hrange
  · have hrange := outOfRange_iff.mp h
    rw [hmagnitude] at hrange
    rw [roundTo64_outOfRange _ hrange]
    exact isInf_withSign_infBits _

end Sys2Proof.Safety

namespace Sys2Proof.Machine

/-! Infinities and NaNs. -/

theorem fadd_of_isNan (nan : F64) {a b : F64} (h : isNan a = true ∨ isNan b = true) : fadd nan a b = nan := by
  rw [fadd, if_pos (by simpa using h)]

theorem fmul_of_isNan (nan : F64) {a b : F64} (h : isNan a = true ∨ isNan b = true) : fmul nan a b = nan := by
  rw [fmul, if_pos (by simpa using h)]

theorem fadd_isInf_left (nan : F64) {a b : F64} (ha : isInf a = true) (hb : isFinite b = true) : fadd nan a b = a := by
  simp [fadd, ha, isNan_eq_false_of_isInf ha, isNan_eq_false_of_isFinite hb, isInf_eq_false_of_isFinite hb]

theorem fadd_isInf_right (nan : F64) {a b : F64} (ha : isFinite a = true) (hb : isInf b = true) : fadd nan a b = b := by
  simp [fadd, hb, isNan_eq_false_of_isInf hb, isNan_eq_false_of_isFinite ha, isInf_eq_false_of_isFinite ha]

theorem fadd_isInf_isInf (nan : F64) {a b : F64} (ha : isInf a = true) (hb : isInf b = true) :
    fadd nan a b = if fpSign a = fpSign b then a else nan := by
  simp [fadd, ha, hb, isNan_eq_false_of_isInf]

/-- An infinity times zero is a NaN, times anything else an infinity. -/
theorem fmul_isInf_left (nan : F64) {a b : F64} (ha : isInf a = true) (hb : isNan b = false) :
    fmul nan a b = if magnitude b = 0 then nan else withSign (fpSign a != fpSign b) infBits := by
  simp [fmul, ha, hb, isNan_eq_false_of_isInf ha, magnitude_ne_zero_of_isInf ha]

theorem fmul_isInf_right (nan : F64) {a b : F64} (ha : isInf a = true) (hb : isNan b = false) :
    fmul nan b a = if magnitude b = 0 then nan else withSign (fpSign a != fpSign b) infBits := by
  simp [fmul, ha, hb, isNan_eq_false_of_isInf ha, magnitude_ne_zero_of_isInf ha, bne_comm]

theorem isFinite_and_scaled_eq_zero_iff {x : F64} (h : isNan x = false) :
    isFinite x = true ∧ scaled x = 0 ↔ magnitude x = 0 := by
  rw [← natAbs_scaled, Int.natAbs_eq_zero, and_iff_right_iff_imp]
  refine fun hzero => (isInf_or_isFinite h).resolve_left fun hinf => magnitude_ne_zero_of_isInf hinf ?_
  rw [← natAbs_scaled, hzero, Int.natAbs_zero]

theorem isNan_withSign (neg : Bool) {frac : ℕ} (hne : frac ≠ 0) (hlt : frac < 2 ^ 52) :
    isNan (withSign neg (infBits + frac)) = true := by
  have hinf : infBits = 2047 * 2 ^ 52 := rfl
  have hlow : infBits + frac < 2 ^ 63 := by omega
  rw [isNan, fpExp_withSign neg hlow, fpFrac_withSign neg hlow, Bool.and_eq_true, beq_iff_eq, bne_iff_ne]
  omega

/-- Log 5: every draw is a NaN. -/
theorem isNan_nanOf (bits : BitVec 53) : isNan (nanOf bits) = true := by
  have hlt := (bits.extractLsb' 0 52).isLt
  refine isNan_withSign _ ?_ ?_ <;> split <;> omega

/-- Log 5: every NaN is a draw. -/
theorem exists_nanOf_eq {x : F64} (h : isNan x = true) : ∃ bits, nanOf bits = x := by
  simp only [isNan, Bool.and_eq_true, beq_iff_eq, bne_iff_ne] at h
  obtain ⟨hexp, hfrac⟩ := h
  refine ⟨BitVec.cons (fpSign x) (x.extractLsb' 0 52), ?_⟩
  have hsign : (BitVec.cons (fpSign x) (x.extractLsb' 0 52)).getLsbD 52 = fpSign x := by
    rw [BitVec.getLsbD_cons, if_pos rfl]
  have hbits : (BitVec.cons (fpSign x) (x.extractLsb' 0 52)).extractLsb' 0 52 = x.extractLsb' 0 52 := by
    simp
  rw [nanOf, hsign, hbits, if_neg (show (x.extractLsb' 0 52).toNat ≠ 0 from hfrac), infBits, ← hexp]
  exact withSign_fields x

/-! Integers. -/

theorem i2f_eq_roundTo64 (x : ℤ) : i2f x = roundTo64 (decide (x < 0)) (x.natAbs * 2 ^ 1074) 0 := by
  rw [i2f]
  split
  · next h => rw [h, Int.natAbs_zero, zero_mul, roundTo64_zero]; rfl
  · rfl

theorem fpSign_i2f (x : ℤ) : fpSign (i2f x) = decide (x < 0) := by rw [i2f_eq_roundTo64, fpSign_roundTo64]

/-- R132: an integer with at most 53 bits is a value. -/
theorem i2f_exact {x : ℤ} (h : x.natAbs < 2 ^ 53) : isFinite (i2f x) = true ∧ scaled (i2f x) = x * 2 ^ 1074 := by
  have hrange : x.natAbs * 2 ^ 1074 < (2 ^ 54 - 1) * 2 ^ (2044 + 0) :=
    Nat.mul_lt_mul_of_lt_of_le (h.trans (by decide)) (by gcongr <;> decide) (by positivity)
  rw [i2f_eq_roundTo64]
  refine ⟨isFinite_roundTo64 _ hrange, ?_⟩
  rw [scaled_eq_signFactor_mul, fpSign_roundTo64, magnitude_roundTo64_mul _ h (Nat.zero_le _) hrange,
    Nat.cast_mul, Int.natCast_natAbs, ← mul_assoc, signFactor_decide_mul, Nat.sub_zero, Nat.cast_pow, Nat.cast_ofNat]

/-- At most one integer is nearest, the even one of two. -/
theorem nearest_int_unique {D t z z' : ℤ} (hD : 0 < D) (h : 2 * |t - z * D| < D ∨ 2 * |t - z * D| = D ∧ z % 2 = 0)
    (h' : 2 * |t - z' * D| < D ∨ 2 * |t - z' * D| = D ∧ z' % 2 = 0) : z = z' := by
  by_contra hne
  have hdist : |z - z'| * D ≤ |t - z * D| + |t - z' * D| := by
    rw [← abs_of_pos hD, ← abs_mul, abs_of_pos hD, sub_mul, abs_sub_comm t (z * D)]
    exact abs_sub_le _ _ _
  have hone : D ≤ |z - z'| * D := le_mul_of_one_le_left hD.le (Int.one_le_abs (sub_ne_zero.mpr hne))
  obtain ⟨htie, heven⟩ := h.resolve_left fun hlt => by rcases h' with h' | ⟨h', -⟩ <;> linarith
  obtain ⟨htie', heven'⟩ := h'.resolve_left fun hlt => by linarith
  have hadjacent : |z - z'| = 1 := mul_right_cancel₀ hD.ne' (by linarith)
  rcases abs_eq zero_le_one |>.mp hadjacent with h | h <;> omega

theorem fround_finite {x : F64} (h : isFinite x = true) :
    fround x = some (signFactor (fpSign x) * roundShift (magnitude x) 1074) := by
  rw [fround, if_pos h, signFactor, ite_mul, neg_one_mul, one_mul]

/-- R143: the machine's rounding gives the nearest integer, the even one of two. -/
theorem nearestInt_roundShift {x : F64} (h : isFinite x = true) :
    Safety.NearestInt x (signFactor (fpSign x) * roundShift (magnitude x) 1074) := by
  refine ⟨h, ?_⟩
  rw [scaled_eq_signFactor_mul, mul_assoc, ← mul_sub, abs_mul, abs_signFactor, one_mul, signFactor_mul_emod_two, abs_sub_comm]
  exact roundShift_nearest _ _

/-- R143: `fround` gives the nearest integer of a finite pattern, and of no other. -/
theorem fround_eq_some_iff {x : F64} {z : ℤ} : fround x = some z ↔ Safety.NearestInt x z := by
  constructor
  · intro h
    have hfinite : isFinite x = true := by
      by_contra hne
      simp [fround, hne] at h
    rw [fround_finite hfinite, Option.some.injEq] at h
    exact h ▸ nearestInt_roundShift hfinite
  · intro h
    rw [fround_finite h.1, Option.some.injEq]
    exact nearest_int_unique (by positivity) (nearestInt_roundShift h.1).2 h.2

end Sys2Proof.Machine

namespace Sys2Proof.Safety

open Sys2Proof.Machine

/-- Settles O57: each special operand decides its own branch of the operation, a difference is a sum with the negated pattern, and
`nanOf` reaches a NaN from its own sign and fraction. -/
theorem specialValuesFollowIeee : Obligations.SpecialValuesFollowIeee := by
  intro nan a b
  refine ⟨fun h => ?_, fun ha hb => ?_, fun ha hb => ?_, fun ha hb => ?_, fneg_eq_xor a, exists_nanOf_eq, ?_⟩
  · exact ⟨fadd_of_isNan nan h, fadd_of_isNan nan (by rwa [isNan_fneg]), fmul_of_isNan nan h⟩
  · exact ⟨fadd_isInf_left nan ha hb, fadd_isInf_left nan ha (by rwa [isFinite_fneg]), fadd_isInf_right nan hb ha,
      fadd_isInf_right nan hb (by rwa [isInf_fneg])⟩
  · refine ⟨fadd_isInf_isInf nan ha hb, ?_⟩
    rw [fsub, fadd_isInf_isInf nan ha (by rwa [isInf_fneg]), fpSign_fneg]
    cases fpSign a <;> cases fpSign b <;> rfl
  · rw [isFinite_and_scaled_eq_zero_iff hb, fmul_isInf_left nan ha hb, fmul_isInf_right nan ha hb]
    refine ⟨fun hzero => ?_, fun hne => ?_⟩
    · rw [if_pos hzero]
      exact ⟨rfl, rfl⟩
    · rw [if_neg hne]
      exact ⟨isInf_withSign_infBits _, rfl, fpSign_withSign_infBits _⟩
  · rintro ⟨bits, rfl⟩
    exact isNan_nanOf bits

/-- Settles O58: such an integer has at most 53 bits, so it is not rounded. -/
theorem integersConvertExactly : Obligations.IntegersConvertExactly :=
  ⟨fun x hx => i2f_exact (by rw [Int.abs_eq_natAbs] at hx; omega), rfl⟩

end Sys2Proof.Safety
end

section
/-! The floating-point ring commands and the rounding conversion (R137 to R143), and the round trip of integers (R136). -/

namespace Sys2Proof.Machine

open Safety

/-! The arms of `exec`. -/

theorem exec_fft (rd rs1 : Reg) (s : State) : exec (.fft rd rs1) s = execFft rd rs1 s := rfl

theorem exec_ifft (rd rs1 : Reg) (s : State) : exec (.ifft rd rs1) s = execIfft rd rs1 s := rfl

theorem exec_addf (rd rs1 rs2 : Reg) (s : State) : exec (.addf rd rs1 rs2) s = execAddf rd rs1 rs2 s := rfl

theorem exec_subf (rd rs1 rs2 : Reg) (s : State) : exec (.subf rd rs1 rs2) s = execSubf rd rs1 rs2 s := rfl

theorem exec_negf (rd rs1 : Reg) (s : State) : exec (.negf rd rs1) s = execNegf rd rs1 s := rfl

theorem exec_mulf (rd rs1 rs2 : Reg) (s : State) : exec (.mulf rd rs1 rs2) s = execMulf rd rs1 rs2 s := rfl

theorem exec_round (rd rs1 : Reg) (s : State) : exec (.round rd rs1) s = execRound rd rs1 s := rfl

/-! Their values. -/

theorem isNan_nanAt (s : State) (j slot : ℕ) : isNan (s.nanAt j slot) = true := isNan_nanOf _

theorem natAbs_zOf_lt (c : Lane) : (zOf c).natAbs < 2 ^ 53 := by
  have hlo := BitVec.le_toInt (laneWord c 0)
  have hhi := BitVec.toInt_lt (x := laneWord c 0)
  rw [zOf]
  omega

theorem qOf_lt (c : Lane) : qOf c < 2 ^ 53 := (laneWord c 0).isLt.trans (by decide)

theorem State.fs_eq_map_range (s : State) (r : Reg) : s.fs r = (List.range s.n).map fun j => fOf (s.lane r j) := by
  rw [State.fs, State.lanes, List.map_map]
  rfl

/-- What `FFT` reads from a lane (R137): the exact value of an integer or residue, the pattern of a real. -/
theorem fftInput_z (c : Lane) : fftInput Config.num .z c = i2f (zOf c) := by
  rw [fftInput, if_pos rfl, Config.num_i2f]

theorem fftInput_q (c : Lane) : fftInput Config.num .q c = i2f (qOf c) := by
  rw [fftInput, if_neg (by decide), if_pos rfl, Config.num_i2f]

theorem fftInput_r (c : Lane) : fftInput Config.num .r c = rOf c := rfl

/-- R143: a real passes `ROUND`'s check when its nearest integer is a 32-bit integer. -/
theorem roundsToInt32_iff {x : F64} :
    roundsToInt32 Config.num x = true ↔ ∃ z, NearestInt x z ∧ -2 ^ 31 ≤ z ∧ z ≤ 2 ^ 31 - 1 := by
  simp only [← fround_eq_some_iff, roundsToInt32, Config.num_fround]
  cases fround x with
  | none => simp
  | some z => simp [fitsInt32]

theorem roundCheck_eq_none_iff {s : State} {r : Reg} : roundCheck Config.num (s.rs r) = none ↔
    ∀ j < s.n, ∃ z, NearestInt (rOf (s.lane r j)) z ∧ -2 ^ 31 ≤ z ∧ z ≤ 2 ^ 31 - 1 := by
  simp only [← roundsToInt32_iff, roundCheck, ite_eq_left_iff, reduceCtorEq, imp_false, not_not, List.all_eq_true, State.rs,
    List.forall_mem_map, State.forall_mem_lanes]

theorem roundCheck_range {xs : List F64} (h : roundCheck Config.num xs ≠ none) : roundCheck Config.num xs = some .range :=
  if_neg fun hall => h (if_pos hall)

end Sys2Proof.Machine

namespace Sys2Proof.Safety

open Sys2Proof.Machine

/-- One source with one of two admitted tags. -/
theorem mem_admitted_either {a b t : Tag} (h : t = a ∨ t = b) : [t] ∈ [[a], [b]] := by simpa using h

/-- Settles O34: integers and residues have at most 53 bits, so their patterns are exact. -/
theorem fftTransformsLanes : Obligations.FftTransformsLanes := by
  intro s rd rs1 hfault
  refine ⟨rfl, configAndTagFaults_of_exec (exec_fft rd rs1 s) hfault rfl, fun hlogn htag => ?_⟩
  obtain ⟨t, hexec, hwrites⟩ := writesLanes_of_exec (exec_fft rd rs1 s) hfault rfl hlogn (by decide)
    (by simpa using htag) rfl rfl
  refine ⟨t, (s.lanes rs1).map (fftInput Config.num s.tags[rs1]), hexec, by rw [List.length_map, s.lanes_length],
    fun j hj => ?_, hwrites⟩
  rw [List.getElem_map, s.lanes_getElem]
  refine ⟨fun hz => ?_, fun hq => ?_, fun hr => ?_⟩
  · rw [hz, fftInput_z]
    obtain ⟨hfinite, hvalue⟩ := i2f_exact (natAbs_zOf_lt (s.lane rs1 j))
    exact ⟨hfinite, hvalue, fpSign_i2f _⟩
  · rw [hq, fftInput_q]
    obtain ⟨hfinite, hvalue⟩ := i2f_exact (x := qOf (s.lane rs1 j)) (qOf_lt _)
    exact ⟨hfinite, hvalue, (fpSign_i2f _).trans (decide_eq_false (by omega))⟩
  · rw [hr, fftInput_r]

/-- Settles O35: the machine hands the open transform the complex lanes in order. -/
theorem ifftTransformsLanes : Obligations.IfftTransformsLanes := by
  intro s rd rs1 hfault
  refine ⟨rfl, configAndTagFaults_of_exec (exec_ifft rd rs1 s) hfault rfl, fun hlogn htag => ?_⟩
  refine writesLanes_of_exec (exec_ifft rd rs1 s) hfault rfl hlogn (by decide) (mem_admitted_single htag) rfl ?_
  rw [← s.fs_eq_map_range]
  rfl

section
variable {s : State} {i : Instr} {rd rs1 rs2 : Reg} {op : F64 → F64 → F64 → F64}
  (hexec : exec i s = runCommand i s [needsN s, tagCheck s [rs1, rs2] [[.r, .r], [.f, .f]]] fun s =>
    s.commitLanes rd s.tags[rs1] (s.lanewise2 rs1 rs2 fun j => realOrComplex s.tags[rs1] fun slot => op (s.nanAt j slot)))
  (hfault : s.fault = none) (hwf : WellFormed i = true) (hlogn : s.logn ≠ 0#4)
include hexec hfault hwf hlogn

/-- A lane-wise sum or difference of real lanes, with a draw for each lane (R139, R140). -/
theorem writesLanes_realOperation (h1 : s.tags[rs1] = .r) (h2 : s.tags[rs2] = .r) :
    ∃ (t : State) (nan : ℕ → F64), exec i s = .next t ∧ (∀ j, isNan (nan j) = true) ∧
      WritesLanes s t rd .r fun j => rLane (op (nan j) (rOf (s.lane rs1 j)) (rOf (s.lane rs2 j))) := by
  obtain ⟨t, hnext, hwrites⟩ := writesLanes_of_exec hexec hfault hwf hlogn (by decide)
    (mem_admitted_pairs (.inl ⟨h1, h2⟩)) rfl (by rw [h1]; rfl)
  exact ⟨t, fun j => s.nanAt j 0, hnext, fun j => isNan_nanAt s j 0, hwrites⟩

/-- A lane-wise sum or difference of complex lanes, with a draw for each part of each lane (R139, R140). -/
theorem writesLanes_complexOperation (h1 : s.tags[rs1] = .f) (h2 : s.tags[rs2] = .f) :
    ∃ (t : State) (nan nan' : ℕ → F64), exec i s = .next t ∧ (∀ j, isNan (nan j) = true ∧ isNan (nan' j) = true) ∧
      WritesLanes s t rd .f fun j => fLane (op (nan j) (fOf (s.lane rs1 j)).1 (fOf (s.lane rs2 j)).1,
        op (nan' j) (fOf (s.lane rs1 j)).2 (fOf (s.lane rs2 j)).2) := by
  obtain ⟨t, hnext, hwrites⟩ := writesLanes_of_exec hexec hfault hwf hlogn (by decide)
    (mem_admitted_pairs (.inr ⟨h1, h2⟩)) rfl (by rw [h1]; rfl)
  exact ⟨t, fun j => s.nanAt j 0, fun j => s.nanAt j 1, hnext, fun j => ⟨isNan_nanAt s j 0, isNan_nanAt s j 1⟩, hwrites⟩

end

/-- Settles O36: the lane-wise operation with `fadd`. -/
theorem addfAddsLanes : Obligations.AddfAddsLanes := by
  intro s rd rs1 rs2 hfault
  have hexec := exec_addf rd rs1 rs2 s
  exact ⟨rfl, configAndTagFaults_of_exec hexec hfault rfl, fun hlogn =>
    ⟨writesLanes_realOperation hexec hfault rfl hlogn, writesLanes_complexOperation hexec hfault rfl hlogn⟩⟩

/-- Settles O37: the lane-wise operation with `fsub`. -/
theorem subfSubtractsLanes : Obligations.SubfSubtractsLanes := by
  intro s rd rs1 rs2 hfault
  have hexec := exec_subf rd rs1 rs2 s
  exact ⟨rfl, configAndTagFaults_of_exec hexec hfault rfl, fun hlogn =>
    ⟨writesLanes_realOperation hexec hfault rfl hlogn, writesLanes_complexOperation hexec hfault rfl hlogn⟩⟩

/-- Settles O38: the machine negates the real, or both parts, and negation is the flip of bit 63. -/
theorem negfFlipsSigns : Obligations.NegfFlipsSigns := by
  intro s rd rs1 hfault
  refine ⟨rfl, configAndTagFaults_of_exec (exec_negf rd rs1 s) hfault rfl, fun hlogn => ⟨fun htag => ?_, fun htag => ?_⟩⟩
  · exact writesLanes_of_exec (exec_negf rd rs1 s) hfault rfl hlogn (by decide)
      (mem_admitted_either (.inl htag)) rfl (by rw [htag]; rfl)
  · exact writesLanes_of_exec (exec_negf rd rs1 s) hfault rfl hlogn (by decide)
      (mem_admitted_either (.inr htag)) rfl (by rw [htag]; rfl)

/-- Settles O39: the machine's complex product, the draw of lane `k` and operation `i` being `nanAt k i`. -/
theorem mulfMultipliesLanes : Obligations.MulfMultipliesLanes := by
  intro s rd rs1 rs2 hfault
  refine ⟨rfl, configAndTagFaults_of_exec (exec_mulf rd rs1 rs2 s) hfault rfl, fun hlogn htag1 htag2 => ?_⟩
  obtain ⟨t, hexec, hwrites⟩ := writesLanes_of_exec (exec_mulf rd rs1 rs2 s) hfault rfl hlogn (by decide)
    (mem_admitted_pair htag1 htag2) rfl rfl
  exact ⟨t, s.nanAt, hexec, isNan_nanAt s, hwrites⟩

/-- Settles O40: `fround` gives the nearest integer, so the data check passes exactly when every lane has one in range. -/
theorem roundTakesNearestIntegers : Obligations.RoundTakesNearestIntegers := by
  intro s rd rs1 hfault
  refine ⟨rfl, configAndTagFaults_of_exec (exec_round rd rs1 s) hfault rfl, fun hlogn htag =>
    ⟨fun hlanes => ?_, fun hlanes => ?_⟩⟩
  · obtain ⟨t, hexec, hwrites⟩ := writesLanes_of_exec (exec_round rd rs1 s) hfault rfl hlogn (by decide)
      (mem_admitted_single htag) ((firstFault_singleton _).trans (roundCheck_eq_none_iff.mpr hlanes)) rfl
    refine ⟨t, _, hexec, fun j hj => ?_, hwrites⟩
    obtain ⟨z, hz, -⟩ := hlanes j hj
    rw [Config.prau_num, Config.num_fround, fround_eq_some_iff.mpr hz]
    exact hz
  · refine faults_of_firstFault (exec_round rd rs1 s) hfault rfl ?_
    rw [firstFault_of_admitted hlogn (by decide) (mem_admitted_single htag), firstFault_singleton]
    exact roundCheck_range (mt roundCheck_eq_none_iff.mp (by simpa using hlanes))

/-- Settles O60: the inputs are exact, so `FFT_RT` leaves an error below one half, and the integer is the nearest one. -/
theorem roundTripRecoversIntegers : Obligations.RoundTripRecoversIntegers := by
  intro num logn zs htrip hlogn hle hlength hzs
  have hexact : ∀ z ∈ zs, isFinite (i2f z) = true ∧ scaled (i2f z) = z * 2 ^ 1074 := fun z hz =>
    i2f_exact (by have := hzs z hz; rw [Int.abs_eq_natAbs] at this; omega)
  have hmagnitude : ∀ z ∈ zs, |scaled (i2f z)| ≤ 2 ^ 28 * 2 ^ 1074 := fun z hz => by
    rw [(hexact z hz).2, abs_mul, abs_of_pos (by positivity : (0 : ℤ) < 2 ^ 1074)]
    exact mul_le_mul_of_nonneg_right (hzs z hz) (by positivity)
  have hinput : ∀ x ∈ zs.map i2f, isFinite x = true ∧ |scaled x| ≤ 2 ^ 31 * 2 ^ 1074 := by
    rw [List.forall_mem_map]
    exact fun z hz => ⟨(hexact z hz).1, (hmagnitude z hz).trans (by gcongr <;> decide)⟩
  apply List.ext_getElem
  · simp [hlength]
  intro j hj hj'
  rw [List.length_map] at hj'
  obtain ⟨hfinite, y, hy, herror⟩ := htrip logn hlogn hle (zs.map i2f) (by simp [hlength]) hinput j (by simpa using hj')
  obtain ⟨z, hz, rfl⟩ := List.mem_map.mp hy
  rw [List.getElem_map, (hexact _ (List.getElem_mem hj')).2] at herror
  have hbound := herror.trans (hmagnitude z hz)
  rw [List.getElem_map, List.getElem_map, List.getElem_range, fround_eq_some_iff]
  refine ⟨hfinite, .inl ?_⟩
  have hpos : (0 : ℤ) < 2 ^ 1074 := by positivity
  generalize (2 : ℤ) ^ 1074 = D at *
  omega

end Sys2Proof.Safety
end

section
/-! The ideal transforms (R133, R144): over the complex numbers they are the transform and its inverse at `zeta_n`. -/

namespace Sys2Proof.Safety

section
variable {n : ℕ} {zeta : ℂ} {f g h : ℕ → ℝ} {F G : ℕ → ℂ}

/-- `zeta_n` has order `2n`. -/
theorem IsZeta.isPrimitiveRoot (hz : IsZeta n zeta) (hn : 0 < n) : IsPrimitiveRoot zeta (2 * n) := by
  have hroot := Complex.isPrimitiveRoot_exp (2 * n) (by omega)
  have hexponent : 2 * Real.pi * Complex.I / ((2 * n : ℕ) : ℂ) = Complex.I * Real.pi / n := by
    push_cast
    rw [mul_assoc, mul_div_mul_left _ _ two_ne_zero, mul_comm]
  rwa [hexponent, ← hz] at hroot

theorem IsZeta.conj_eq_inv (hz : IsZeta n zeta) : starRingEnd ℂ zeta = zeta⁻¹ := by
  rw [hz, ← Complex.exp_conj, ← Complex.exp_neg]
  simp [neg_div]

theorem isIdealFft_iff (hz : IsZeta n zeta) :
    IsIdealFft n f F ↔ ∀ k < n, F k = transform n zeta (fun j => (f j : ℂ)) k :=
  ⟨fun hF => hF zeta hz, fun hF zeta' hz' => by rwa [hz', ← hz]⟩

theorem isIdealIfft_iff (hz : IsZeta n zeta) :
    IsIdealIfft n F f ↔ ∀ j < n, f j = (inverseTransform n zeta F j).re := by
  have hsum (j : ℕ) : (1 / (n : ℂ)) * ∑ k ∈ Finset.range n, F k * (zeta ^ ((2 * k + 1) * j))⁻¹ =
      inverseTransform n zeta F j := by
    simp only [inverseTransform, inv_pow, one_div]
  simp only [← hsum]
  exact ⟨fun hf => hf zeta hz, fun hf zeta' hz' => by rwa [hz', ← hz]⟩

theorem inverseTransform_congr {x : ℂ} (h : ∀ k < n, F k = G k) (j : ℕ) :
    inverseTransform n x F j = inverseTransform n x G j := by
  simp only [inverseTransform]
  rw [Finset.sum_congr rfl fun k hk => by rw [h k (Finset.mem_range.mp hk)]]

/-- R133: the ideal inverse transform undoes the ideal transform. -/
theorem IsIdealFft.isIdealIfft (hF : IsIdealFft n f F) : IsIdealIfft n F f := by
  have hz : IsZeta n _ := rfl
  refine (isIdealIfft_iff hz).mpr fun j hj => ?_
  rw [inverseTransform_congr ((isIdealFft_iff hz).mp hF),
    inverseTransform_transform (hz.isPrimitiveRoot (by omega)) _ hj, Complex.ofReal_re]

/-- R133: the ideal transform is linear. -/
theorem IsIdealFft.linear (hF : IsIdealFft n f F) (hG : IsIdealFft n g G) (a b : ℝ) :
    IsIdealFft n (fun j => a * f j + b * g j) (fun k => a * F k + b * G k) := by
  intro zeta hz k hk
  beta_reduce
  rw [hF zeta hz k hk, hG zeta hz k hk, Finset.mul_sum, Finset.mul_sum, ← Finset.sum_add_distrib]
  refine Finset.sum_congr rfl fun j _ => ?_
  push_cast
  ring

theorem IsIdealFft.add (hF : IsIdealFft n f F) (hG : IsIdealFft n g G) :
    IsIdealFft n (fun j => f j + g j) (fun k => F k + G k) := by
  simpa using hF.linear hG 1 1

theorem IsIdealFft.sub (hF : IsIdealFft n f F) (hG : IsIdealFft n g G) :
    IsIdealFft n (fun j => f j - g j) (fun k => F k - G k) := by
  simpa [sub_eq_add_neg] using hF.linear hG 1 (-1)

theorem IsIdealFft.neg (hF : IsIdealFft n f F) : IsIdealFft n (fun j => -f j) (fun k => -F k) := by
  simpa using hF.linear hF (-1) 0

/-- R144: the ideal transform takes the product modulo `x^n + 1` to lane products. -/
theorem IsIdealFft.mul (hF : IsIdealFft n f F) (hG : IsIdealFft n g G) (hh : IsRealProduct n f g h) :
    IsIdealFft n h (fun k => F k * G k) := by
  have hz : IsZeta n _ := rfl
  refine (isIdealFft_iff hz).mpr fun k hk => ?_
  have hproduct : ∀ j < n, (h j : ℂ) = negacyclicProduct n (fun j => (f j : ℂ)) (fun j => (g j : ℂ)) j := by
    intro j hj
    simp only [hh j hj, negacyclicProduct, Complex.ofReal_sum, apply_ite Complex.ofReal, Complex.ofReal_mul,
      Complex.ofReal_neg, Complex.ofReal_zero]
  have hroot := pow_length_eq_neg_one (hz.isPrimitiveRoot (by omega)) (by omega)
  rw [(isIdealFft_iff hz).mp hF k hk, (isIdealFft_iff hz).mp hG k hk, ← transform_negacyclicProduct hroot]
  exact Finset.sum_congr rfl fun j hj => congrArg (· * _) (hproduct j (Finset.mem_range.mp hj)).symm

/-- The ideal transform of a real list has conjugate values at opposite lanes. -/
theorem IsIdealFft.conj (hF : IsIdealFft n f F) {k : ℕ} (hk : k < n) : F (n - 1 - k) = starRingEnd ℂ (F k) := by
  have hz : IsZeta n _ := rfl
  have hroot := (hz.isPrimitiveRoot (by omega)).pow_eq_one
  rw [hF _ hz k hk, hF _ hz (n - 1 - k) (by omega), map_sum]
  refine Finset.sum_congr rfl fun j _ => ?_
  rw [map_mul, Complex.conj_ofReal, map_pow, hz.conj_eq_inv, inv_pow]
  congr 1
  refine eq_inv_of_mul_eq_one_left ?_
  rw [← pow_add, ← add_mul, show 2 * (n - 1 - k) + 1 + (2 * k + 1) = 2 * n by omega, pow_mul, hroot, one_pow]

end

end Sys2Proof.Safety
end

section
/-! Exact arithmetic on patterns: an operation whose exact result is a value gives that value (R131), and what that means for
registers that hold ideal transforms (R133, R144). -/

namespace Sys2Proof.Safety

open Sys2Proof.Machine

/-- A finite value is not out of range. -/
theorem not_outOfRange_of_isFinite {z : F64} (hz : isFinite z = true) (sh : ℕ) : ¬ OutOfRange (scaled z * 2 ^ sh) sh := by
  have hmagnitude := magnitude_le_of_isFinite hz
  rw [outOfRange_iff, not_le, Int.natAbs_mul, natAbs_scaled, Int.natAbs_pow, pow_add, ← mul_assoc]
  refine Nat.mul_lt_mul_of_pos_right (hmagnitude.trans_lt ?_) (by positivity)
  exact Nat.mul_lt_mul_of_pos_right (by decide) (by positivity)

/-- Where the exact result is a value, rounding to the nearest pattern gives that value. -/
theorem isValue_of_nearestPattern {r z : F64} {t : ℤ} {sh : ℕ} {v : ℝ} (hz : IsValue z v) (ht : scaled z * 2 ^ sh = t)
    (hr : ¬ OutOfRange t sh → NearestPattern r t sh) : IsValue r v := by
  subst ht
  obtain ⟨hfinite, hnearest⟩ := hr (not_outOfRange_of_isFinite hz.1 sh)
  have hzero : |scaled r * 2 ^ sh - scaled z * 2 ^ sh| ≤ 0 := by
    have := hnearest z hz.1
    rw [sub_self, abs_zero] at this
    rcases this with h | h <;> omega
  have heq : scaled r = scaled z := mul_right_cancel₀ (by positivity) (sub_eq_zero.mp (abs_nonpos_iff.mp hzero))
  exact ⟨hfinite, heq ▸ hz.2⟩

theorem isValue_fadd (nan : F64) {x y : F64} {v w : ℝ} (hx : IsValue x v) (hy : IsValue y w)
    (h : Representable (v + w)) : IsValue (fadd nan x y) (v + w) := by
  obtain ⟨z, hz⟩ := h
  refine isValue_of_nearestPattern (sh := 0) hz ?_ (nearestPattern_fadd nan hx.1 hy.1)
  rw [pow_zero, mul_one, ← Int.cast_inj (α := ℝ), Int.cast_add, ← hz.2, ← hx.2, ← hy.2, add_mul]

theorem isValue_fneg {x : F64} {v : ℝ} (hx : IsValue x v) : IsValue (fneg x) (-v) :=
  ⟨(isFinite_fneg x).trans hx.1, by rw [scaled_fneg, Int.cast_neg, ← hx.2, neg_mul]⟩

theorem isValue_fsub (nan : F64) {x y : F64} {v w : ℝ} (hx : IsValue x v) (hy : IsValue y w)
    (h : Representable (v - w)) : IsValue (fsub nan x y) (v - w) := by
  rw [sub_eq_add_neg] at h ⊢
  exact isValue_fadd nan hx (isValue_fneg hy) h

theorem isValue_fmul (nan : F64) {x y : F64} {v w : ℝ} (hx : IsValue x v) (hy : IsValue y w)
    (h : Representable (v * w)) : IsValue (fmul nan x y) (v * w) := by
  obtain ⟨z, hz⟩ := h
  refine isValue_of_nearestPattern (sh := 1074) hz ?_ (productsRoundToNearestEven nan x y hx.1 hy.1).1
  rw [← Int.cast_inj (α := ℝ), Int.cast_mul, Int.cast_mul, ← hz.2, ← hx.2, ← hy.2, Int.cast_pow, Int.cast_ofNat]
  generalize (2 : ℝ) ^ 1074 = P
  ring

/-! Complex values: each part on its own. -/

section
variable {x y : F64 × F64} {z w : ℂ} (hx : IsComplexValue x z) (hy : IsComplexValue y w)
include hx hy

theorem isComplexValue_add (nan nan' : F64) (h : Representable (z + w).re ∧ Representable (z + w).im) :
    IsComplexValue (fadd nan x.1 y.1, fadd nan' x.2 y.2) (z + w) :=
  ⟨isValue_fadd nan hx.1 hy.1 h.1, isValue_fadd nan' hx.2 hy.2 h.2⟩

theorem isComplexValue_sub (nan nan' : F64) (h : Representable (z - w).re ∧ Representable (z - w).im) :
    IsComplexValue (fsub nan x.1 y.1, fsub nan' x.2 y.2) (z - w) :=
  ⟨isValue_fsub nan hx.1 hy.1 h.1, isValue_fsub nan' hx.2 hy.2 h.2⟩

/-- R142: with none of the six operations rounding, the machine's complex product is the product. -/
theorem isComplexValue_complexMul (nan : ℕ → F64) (h : ExactProduct z w) :
    IsComplexValue (complexMul Config.num nan x y) (z * w) := by
  obtain ⟨hrr, hii, hre, hri, hir, him⟩ := h
  exact ⟨isValue_fsub (nan 2) (isValue_fmul (nan 0) hx.1 hy.1 hrr) (isValue_fmul (nan 1) hx.2 hy.2 hii) hre,
    isValue_fadd (nan 5) (isValue_fmul (nan 3) hx.1 hy.2 hri) (isValue_fmul (nan 4) hx.2 hy.1 hir) him⟩

end

theorem isComplexValue_neg {x : F64 × F64} {z : ℂ} (hx : IsComplexValue x z) :
    IsComplexValue (fneg x.1, fneg x.2) (-z) :=
  ⟨isValue_fneg hx.1, isValue_fneg hx.2⟩

/-- A written complex lane reads back. -/
theorem WritesLanes.fOf_lane {s t : State} {rd : Reg} {tag : Tag} {p : ℕ → F64 × F64}
    (h : WritesLanes s t rd tag fun k => fLane (p k)) {k : ℕ} (hk : k < s.n) : fOf (t.lane rd k) = p k := by
  obtain ⟨-, hlanes, -⟩ := h
  rw [hlanes k hk, fOf_fLane]

section
variable {s : State} {rd rs1 rs2 : Reg} {F G : ℕ → ℂ} (hfault : s.fault = none) (hlogn : s.logn ≠ 0#4)
  (h1 : s.tags[rs1] = .f) (hF : ∀ k < s.n, IsComplexValue (fOf (s.lane rs1 k)) (F k))
include hfault hlogn h1 hF

theorem negf_exact : ∃ t, exec (.negf rd rs1) s = .next t ∧ ∀ k < s.n, IsComplexValue (fOf (t.lane rd k)) (-F k) := by
  obtain ⟨-, -, hcommits⟩ := negfFlipsSigns s rd rs1 hfault
  obtain ⟨t, hnext, hwrites⟩ := (hcommits hlogn).2 h1
  exact ⟨t, hnext, fun k hk => hwrites.fOf_lane hk ▸ isComplexValue_neg (hF k hk)⟩

variable (h2 : s.tags[rs2] = .f) (hG : ∀ k < s.n, IsComplexValue (fOf (s.lane rs2 k)) (G k))
include h2 hG

theorem addf_exact (h : ∀ k < s.n, Representable (F k + G k).re ∧ Representable (F k + G k).im) :
    ∃ t, exec (.addf rd rs1 rs2) s = .next t ∧ ∀ k < s.n, IsComplexValue (fOf (t.lane rd k)) (F k + G k) := by
  obtain ⟨-, -, hcommits⟩ := addfAddsLanes s rd rs1 rs2 hfault
  obtain ⟨t, nan, nan', hnext, -, hwrites⟩ := (hcommits hlogn).2 h1 h2
  exact ⟨t, hnext, fun k hk => hwrites.fOf_lane hk ▸ isComplexValue_add (hF k hk) (hG k hk) _ _ (h k hk)⟩

theorem subf_exact (h : ∀ k < s.n, Representable (F k - G k).re ∧ Representable (F k - G k).im) :
    ∃ t, exec (.subf rd rs1 rs2) s = .next t ∧ ∀ k < s.n, IsComplexValue (fOf (t.lane rd k)) (F k - G k) := by
  obtain ⟨-, -, hcommits⟩ := subfSubtractsLanes s rd rs1 rs2 hfault
  obtain ⟨t, nan, nan', hnext, -, hwrites⟩ := (hcommits hlogn).2 h1 h2
  exact ⟨t, hnext, fun k hk => hwrites.fOf_lane hk ▸ isComplexValue_sub (hF k hk) (hG k hk) _ _ (h k hk)⟩

theorem mulf_exact (h : ∀ k < s.n, ExactProduct (F k) (G k)) :
    ∃ t, exec (.mulf rd rs1 rs2) s = .next t ∧ ∀ k < s.n, IsComplexValue (fOf (t.lane rd k)) (F k * G k) := by
  obtain ⟨-, -, hcommits⟩ := mulfMultipliesLanes s rd rs1 rs2 hfault
  obtain ⟨t, nan, hnext, -, hwrites⟩ := hcommits hlogn h1 h2
  exact ⟨t, hnext, fun k hk => hwrites.fOf_lane hk ▸ isComplexValue_complexMul (hF k hk) (hG k hk) (nan k) (h k hk)⟩

end

/-- Settles O59: the laws are those of the transform at a root of order `2n`; operations that need not round write the
values that the laws speak of. -/
theorem idealTransformsAreInverse : Obligations.IdealTransformsAreInverse := by
  rintro logn n f g h F G hlogn - rfl hF hG hh
  refine ⟨hF.isIdealIfft, hF.linear hG, hF.mul hG hh, fun k => hF.conj, ?_⟩
  rintro s rd rs1 rs2 hfault rfl h1 h2 hlanes
  have hconfigured : s.logn ≠ 0#4 := fun hzero => by simp [hzero] at hlogn
  have hF' := fun k hk => (hlanes k hk).1
  have hG' := fun k hk => (hlanes k hk).2
  refine ⟨fun hexact => ?_, fun hexact => ?_, fun hexact => ?_, ?_⟩
  · obtain ⟨t, hnext, hvalues⟩ := mulf_exact (rd := rd) hfault hconfigured h1 hF' h2 hG' hexact
    exact ⟨t, _, hnext, hvalues, hF.mul hG hh, (hF.mul hG hh).isIdealIfft⟩
  · obtain ⟨t, hnext, hvalues⟩ := addf_exact (rd := rd) hfault hconfigured h1 hF' h2 hG' hexact
    exact ⟨t, _, hnext, hvalues, hF.add hG⟩
  · obtain ⟨t, hnext, hvalues⟩ := subf_exact (rd := rd) hfault hconfigured h1 hF' h2 hG' hexact
    exact ⟨t, _, hnext, hvalues, hF.sub hG⟩
  · obtain ⟨t, hnext, hvalues⟩ := negf_exact (rd := rd) hfault hconfigured h1 hF'
    exact ⟨t, _, hnext, hvalues, hF.neg⟩

end Sys2Proof.Safety
end

section
/-! The loop of R163 against the attempts it makes: byte by byte (R162, R164), attempt by attempt, draw by draw. -/

namespace Sys2Proof.Machine

/-- The stream position of an outcome. -/
def LeafOutcome.pos : LeafOutcome → Nat
  | .pending _ _ pos => pos
  | .accepted _ _ pos => pos

variable {att cur next : Byte → LeafStep} {stream : Nat → Byte} {fuel rej pos : Nat} {taken : List Byte} {z : Int}

/-! One byte of the loop. -/

theorem leafLoop_zero : leafLoop att stream 0 cur taken rej pos = .pending rej taken pos := rfl

theorem leafLoop_accept (h : cur (stream pos) = .accept z) :
    leafLoop att stream (fuel + 1) cur taken rej pos = .accepted z rej (pos + 1) := by
  simp only [leafLoop, h]

theorem leafLoop_reject (h : cur (stream pos) = .reject) :
    leafLoop att stream (fuel + 1) cur taken rej pos = leafLoop att stream fuel att [] (rej + 1) (pos + 1) := by
  simp only [leafLoop, h]

theorem leafLoop_more (h : cur (stream pos) = .more next) :
    leafLoop att stream (fuel + 1) cur taken rej pos =
      leafLoop att stream fuel next (taken ++ [stream pos]) rej (pos + 1) := by
  simp only [leafLoop, h]

/-! The loop in two parts. -/

theorem awaiting_cons_of_more {b : Byte} (h : cur b = .more next) (bs : List Byte) :
    awaiting cur (b :: bs) = awaiting next bs := by
  simp only [awaiting, h]

/-- While `cur` is what the attempt has come to after the bytes `taken`, a loop that is given its bytes in two parts goes on from
where it was. -/
theorem leafLoop_add {fuel more rej' pos' : Nat} {taken' : List Byte}
    (hcur : ∀ bs, awaiting att (taken ++ bs) = awaiting cur bs)
    (h : leafLoop att stream fuel cur taken rej pos = .pending rej' taken' pos') :
    leafLoop att stream (fuel + more) cur taken rej pos =
      leafLoop att stream more (awaiting att taken') taken' rej' pos' := by
  induction fuel generalizing cur taken rej pos with
  | zero =>
    rw [leafLoop_zero, LeafOutcome.pending.injEq] at h
    obtain ⟨rfl, rfl, rfl⟩ := h
    have hhere : awaiting att taken = cur := by simpa [awaiting] using hcur []
    rw [hhere, Nat.zero_add]
  | succ fuel ih =>
    rw [Nat.succ_add]
    cases hb : cur (stream pos) with
    | accept z =>
      rw [leafLoop_accept hb] at h
      cases h
    | reject =>
      rw [leafLoop_reject hb] at h ⊢
      exact ih (fun _ => rfl) h
    | more next =>
      rw [leafLoop_more hb] at h ⊢
      refine ih (fun bs => ?_) h
      rw [List.append_assoc, hcur]
      exact awaiting_cons_of_more hb bs

/-- The loop never goes back in the stream (R164). -/
theorem le_leafLoop_pos (att : Byte → LeafStep) (stream : Nat → Byte) (fuel : Nat) (cur : Byte → LeafStep)
    (taken : List Byte) (rej pos : Nat) : pos ≤ (leafLoop att stream fuel cur taken rej pos).pos := by
  induction fuel generalizing cur taken rej pos with
  | zero => exact le_rfl
  | succ fuel ih =>
    cases hb : cur (stream pos) with
    | accept z =>
      rw [leafLoop_accept hb]
      exact pos.le_succ
    | reject =>
      rw [leafLoop_reject hb]
      exact pos.le_succ.trans (ih ..)
    | more next =>
      rw [leafLoop_more hb]
      exact pos.le_succ.trans (ih ..)

end Sys2Proof.Machine

namespace Sys2Proof.Safety

open Sys2Proof.Machine

section
variable {att cur : Byte → LeafStep} {stream : Nat → Byte} {fuel k rej rej₀ pos : Nat} {taken : List Byte}
  {verdict : Option Int} {z : Int}

/-! One attempt. -/

theorem Attempts.pos_length (h : Attempts stream cur pos k verdict) : 0 < k := by
  cases h <;> exact Nat.succ_pos _

/-- Given the bytes of an attempt, the loop ends if the attempt accepts, and begins another if it rejects. -/
theorem Attempts.leafLoop_finished (h : Attempts stream cur pos k verdict) :
    leafLoop att stream (k + fuel) cur taken rej pos =
      verdict.elim (leafLoop att stream fuel att [] (rej + 1) (pos + k)) fun z => .accepted z rej (pos + k) := by
  induction h generalizing taken with
  | accept hb =>
    rw [Nat.add_comm 1 fuel]
    exact leafLoop_accept hb
  | reject hb =>
    rw [Nat.add_comm 1 fuel]
    exact leafLoop_reject hb
  | more hb _ ih => rw [Nat.succ_add, leafLoop_more hb, ih, Nat.add_right_comm, Nat.add_assoc]

/-- Given fewer bytes, it is in the attempt and has taken them all. -/
theorem Attempts.leafLoop_unfinished (h : Attempts stream cur pos k verdict) (hfuel : fuel < k) :
    ∃ taken', leafLoop att stream fuel cur taken rej pos = .pending rej taken' (pos + fuel) := by
  induction h generalizing fuel taken with
  | accept =>
    obtain rfl : fuel = 0 := by omega
    exact ⟨taken, leafLoop_zero⟩
  | reject =>
    obtain rfl : fuel = 0 := by omega
    exact ⟨taken, leafLoop_zero⟩
  | more hb _ ih =>
    cases fuel with
    | zero => exact ⟨taken, leafLoop_zero⟩
    | succ fuel =>
      rw [leafLoop_more hb, Nat.add_comm fuel, ← Nat.add_assoc]
      exact ih (by omega)

/-- The bytes end an attempt, or the loop has taken them all and the attempt goes on. -/
theorem attempts_or_pending (att : Byte → LeafStep) (stream : Nat → Byte) (fuel : Nat) (cur : Byte → LeafStep)
    (taken : List Byte) (rej pos : Nat) : (∃ k ≤ fuel, ∃ verdict, Attempts stream cur pos k verdict) ∨
      ∃ taken', leafLoop att stream fuel cur taken rej pos = .pending rej taken' (pos + fuel) := by
  induction fuel generalizing cur taken pos with
  | zero => exact .inr ⟨taken, leafLoop_zero⟩
  | succ fuel ih =>
    cases hb : cur (stream pos) with
    | accept z => exact .inl ⟨1, by omega, some z, .accept hb⟩
    | reject => exact .inl ⟨1, by omega, none, .reject hb⟩
    | more next =>
      rw [leafLoop_more hb, Nat.add_comm fuel, ← Nat.add_assoc]
      refine (ih next (taken ++ [stream pos]) (pos + 1)).imp_left ?_
      rintro ⟨k, hk, verdict, h⟩
      exact ⟨k + 1, by omega, verdict, .more hb h⟩

/-! One draw. -/

/-- Given the bytes of a draw, the loop ends with its integer and its rejections. -/
theorem Draws.leafLoop_finished (h : Draws stream att pos k rej z) (hfuel : k ≤ fuel) :
    leafLoop att stream fuel att [] rej₀ pos = .accepted z (rej₀ + rej) (pos + k) := by
  induction h generalizing fuel rej₀ with
  | accept h =>
    obtain ⟨fuel, rfl⟩ := Nat.exists_eq_add_of_le hfuel
    exact h.leafLoop_finished
  | again h _ ih =>
    obtain ⟨fuel, rfl⟩ := Nat.exists_eq_add_of_le (Nat.le_of_add_right_le hfuel)
    rw [h.leafLoop_finished, Option.elim_none, ih (by omega), Nat.add_assoc, Nat.add_comm 1, Nat.add_assoc]

/-- Given fewer bytes, it has not ended and has taken them all. -/
theorem Draws.leafLoop_unfinished (h : Draws stream att pos k rej z) (hfuel : fuel < k) :
    ∃ rej' taken, leafLoop att stream fuel att [] rej₀ pos = .pending rej' taken (pos + fuel) := by
  induction h generalizing fuel rej₀ with
  | accept h => exact ⟨rej₀, h.leafLoop_unfinished hfuel⟩
  | @again pos k _ _ _ h _ ih =>
    by_cases hk : fuel < k
    · exact ⟨rej₀, h.leafLoop_unfinished hk⟩
    · obtain ⟨fuel, rfl⟩ := Nat.exists_eq_add_of_le (Nat.le_of_not_lt hk)
      rw [h.leafLoop_finished, Option.elim_none, ← Nat.add_assoc]
      exact ih (by omega)

/-- The bytes reach an accepting attempt, or the loop has taken them all. -/
theorem draws_or_pending (att : Byte → LeafStep) (stream : Nat → Byte) (fuel rej₀ pos : Nat) :
    (∃ k ≤ fuel, ∃ rej z, Draws stream att pos k rej z) ∨
      ∃ rej taken, leafLoop att stream fuel att [] rej₀ pos = .pending rej taken (pos + fuel) := by
  induction fuel using Nat.strong_induction_on generalizing rej₀ pos with
  | _ fuel ih =>
    rcases attempts_or_pending att stream fuel att [] rej₀ pos with ⟨k, hk, _ | z, h⟩ | hpending
    · obtain ⟨fuel, rfl⟩ := Nat.exists_eq_add_of_le hk
      rw [h.leafLoop_finished, Option.elim_none, ← Nat.add_assoc]
      refine (ih fuel (by have := h.pos_length; omega) (rej₀ + 1) (pos + k)).imp_left ?_
      rintro ⟨k', hk', rej, z, hdraws⟩
      exact ⟨k + k', by omega, rej + 1, z, .again h hdraws⟩
    · exact .inl ⟨k, hk, 0, z, .accept h⟩
    · exact .inr ⟨rej₀, hpending⟩

end

/-- Settles O42: by induction on the attempts of the draw, and on the bytes of the first part. -/
theorem leafLoopFollowsAttempts : Obligations.LeafLoopFollowsAttempts := by
  intro att stream pos
  refine ⟨fun k rej z hdraws => ⟨fun fuel hfuel => ?_, fun fuel hfuel => hdraws.leafLoop_unfinished hfuel⟩,
    fun fuel more rej taken pos' hpending => leafLoop_add (fun _ => rfl) hpending⟩
  rw [hdraws.leafLoop_finished hfuel, Nat.zero_add]

end Sys2Proof.Safety
end

section
/-! `SAMPLEZ` (R161 to R164): its operand check, and the draw that its commit starts. -/

namespace Sys2Proof.Machine

theorem exec_samplez (s : State) : exec .samplez s = execSamplez s := rfl

/-- The operand check passes exactly for finite operands and a positive deviation (R163). -/
theorem leafCheck_eq_none {mu sigleaf sigmin : F64} : leafCheck mu sigleaf sigmin = none ↔
    isFinite mu = true ∧ isFinite sigleaf = true ∧ isFinite sigmin = true ∧ 0 < scaled (leafSigma sigleaf sigmin) := by
  simp [leafCheck, and_assoc]

/-- Otherwise it answers `INVALID_PARAM` (R204). -/
theorem leafCheck_invalidParam {mu sigleaf sigmin : F64} (h : leafCheck mu sigleaf sigmin ≠ none) :
    leafCheck mu sigleaf sigmin = some .invalidParam := by
  rw [leafCheck] at h ⊢
  split
  · next hgood => exact absurd (if_pos hgood) h
  · rfl

/-- The effective deviation is the larger one by value (R161). -/
theorem leafSigma_eq (sigleaf sigmin : F64) :
    leafSigma sigleaf sigmin = if scaled sigmin ≤ scaled sigleaf then sigleaf else sigmin := by
  simp only [leafSigma, fle, decide_eq_true_eq]

end Sys2Proof.Machine

namespace Sys2Proof.Safety

open Sys2Proof.Machine

/-- Settles O41: past the operand check the commit is the loop from the start of a draw; its bytes reach an accepting attempt, or
it has taken them all. -/
theorem samplezDrawsOneInteger : Obligations.SamplezDrawsOneInteger := by
  intro s sigma hfault hleaf hsigma
  rw [← leafSigma_eq] at hsigma
  subst hsigma
  refine ⟨rfl, fun hbad => ?_, fun hmu hsigleaf hsigmin hpos => ⟨_, exec_commits (exec_samplez s) hfault rfl
    ((firstFault_singleton _).trans (leafCheck_eq_none.mpr ⟨hmu, hsigleaf, hsigmin, hpos⟩)), ?_⟩⟩
  · refine faults_of_firstFault (exec_samplez s) hfault rfl ((firstFault_singleton _).trans (leafCheck_invalidParam ?_))
    rw [ne_eq, leafCheck_eq_none]
    rintro ⟨hmu, hsigleaf, hsigmin, hpos⟩
    simp only [hmu, hsigleaf, hsigmin, Bool.true_eq_false, false_or] at hbad
    omega
  · set att := Config.leafAttempt s.mu (leafSigma s.sigleaf s.sigmin)
    have hadvance : s.leafAdvance Config.prau ⟨0, []⟩ =
      s.leafSettle (leafLoop att Config.rngByte (Config.rngDelivers s.now) att [] 0 s.rngPos) := rfl
    rcases draws_or_pending att Config.rngByte (Config.rngDelivers s.now) 0 s.rngPos with
      ⟨k, hk, rej, z, hdraws⟩ | ⟨rej, taken, hpending⟩
    · refine .inl ⟨k, rej, z, hdraws, hk, ?_⟩
      rw [hadvance, hdraws.leafLoop_finished hk, State.leafSettle_accepted, Nat.zero_add, ← hleaf]
      rfl
    · refine .inr ⟨?_, rej, taken, hpending, by rw [hadvance, hpending, State.leafSettle_pending]⟩
      rintro ⟨k, rej', z, hdraws, hk⟩
      rw [hdraws.leafLoop_finished hk] at hpending
      cases hpending

end Sys2Proof.Safety
end

section
/-! The position in the RNG stream (R38, R164): what each kind of move makes of it. -/

namespace Sys2Proof.Machine

theorem State.leafSettle_rngPos (s : State) (o : LeafOutcome) : (s.leafSettle o).rngPos = o.pos := by
  cases o with
  | pending rej taken pos => rfl
  | accepted z rej pos =>
    rw [State.leafSettle_accepted]
    split <;> rfl

theorem State.rngPos_le_leafAdvance (s : State) (cfg : Configuration) (run : LeafRun) :
    s.rngPos ≤ (s.leafAdvance cfg run).rngPos := by
  rw [State.leafAdvance, State.leafSettle_rngPos]
  exact le_leafLoop_pos ..

theorem State.writeStorage_rngPos (s : State) (off : Offset) (v : Word) : (s.writeStorage off v).rngPos = s.rngPos := by
  unfold State.writeStorage
  split
  iterate 8 rfl
  split
  · rfl
  · split <;> rfl

end Sys2Proof.Machine

namespace Sys2Proof.Safety

open Sys2Proof.Machine

/-- Only `SAMPLEZ` moves the position, and forward. -/
theorem exec_rngPos {i : Instr} {s t : State} (h : exec i s = .next t) :
    t.rngPos = s.rngPos ∨ i = .samplez ∧ s.rngPos ≤ t.rngPos := by
  cases exec_effect h with
  | sampled hi => exact .inr ⟨hi, s.rngPos_le_leafAdvance _ _⟩
  | _ => exact .inl rfl

theorem submit_rngPos {c : Word} {s t : State} (h : submit Config.prau c s = .next t) :
    t.rngPos = s.rngPos ∨ c = 0x30000000#32 ∧ s.rngPos ≤ t.rngPos := by
  rw [submit] at h
  split at h
  · next i hdecode =>
    refine (exec_rngPos (exec_eq_execIn i s ▸ h)).imp_right (And.imp_left ?_)
    rintro rfl
    exact (encodeUndoesDecode _ _ hdecode).2.symm
  · split at h <;> cases h <;> exact .inl rfl

theorem hostWrite_rngPos {off : Offset} {v : Word} {s t : State} (h : hostWrite Config.prau off v s = .next t) :
    t.rngPos = s.rngPos ∨ (off = cmdOffset ∧ v = 0x30000000#32) ∧ s.rngPos ≤ t.rngPos := by
  rw [hostWrite] at h
  split at h
  · next hcmd => exact (submit_rngPos h).imp_right (And.imp_left fun hv => ⟨hcmd, hv⟩)
  · refine .inl ?_
    split at h
    · cases h
      rw [State.writeCtrl]
      split <;> rfl
    · split at h <;> cases h
      · rfl
      · exact s.writeStorage_rngPos off v

theorem perform_rngPos {op : HostOp} {s t : State} (h : perform Config.prau op s = .next t) :
    t.rngPos = s.rngPos ∨ op = .write cmdOffset 0x30000000#32 ∧ s.rngPos ≤ t.rngPos := by
  cases op with
  | read off =>
    simp only [perform] at h
    split at h <;> cases h
    exact .inl rfl
  | write off v =>
    simp only [perform] at h
    split at h
    · refine (hostWrite_rngPos h).imp_right (And.imp_left ?_)
      rintro ⟨rfl, rfl⟩
      rfl
    · cases h
  | rst =>
    cases h
    exact .inl rfl
  | idle =>
    cases h
    exact .inl rfl

/-- A step that leaves the position alone, a running draw, or the host starting one. -/
theorem step_rngPos {s t : State} (h : step s = .next t) : t.rngPos = s.rngPos ∨
    (s.leaf ≠ none ∨ ∃ rest, s.inputs = .write cmdOffset 0x30000000#32 :: rest) ∧ s.rngPos ≤ t.rngPos := by
  rw [step_eq_stepIn] at h
  cases hleaf : s.leaf with
  | none =>
    cases hinputs : s.inputs with
    | nil =>
      rw [stepIn_idle _ hleaf hinputs] at h
      cases h
      exact .inl rfl
    | cons op rest =>
      rw [stepIn_move _ hleaf hinputs] at h
      obtain ⟨u, hu, rfl⟩ := ticked_next h
      refine (perform_rngPos hu).imp_right (And.imp_left ?_)
      rintro rfl
      exact .inr ⟨rest, rfl⟩
  | some run =>
    by_cases hrst : s.inputs.head? = some .rst
    · obtain ⟨rest, hinputs⟩ := List.head?_eq_some_iff.mp hrst
      rw [stepIn_reset _ hinputs] at h
      cases h
      exact .inl rfl
    · rw [stepIn_running _ hleaf hrst] at h
      cases h
      refine .inr ⟨.inl (Option.some_ne_none run), ?_⟩
      rw [State.tick_rngPos]
      exact (State.rngPos_le_leafAdvance _ _ run).trans' le_rfl

/-- Settles O48: every step leaves the position alone or is one that takes bytes, and then the position moves forward. -/
theorem onlySamplezTakesBytes : Obligations.OnlySamplezTakesBytes := by
  intro s t h
  rcases step_rngPos h with hsame | ⟨hdraws, hle⟩
  · exact ⟨hsame.ge, fun hmoved => absurd hsame hmoved⟩
  · exact ⟨hle, fun _ => hdraws⟩

end Sys2Proof.Safety
end

section
/-! The codec on lists (R180 to R186): bits and the numbers and bytes they stand for, the fields of a code, and what `compress`
and `decompress` answer, both in terms of the bitstream of the list. -/

namespace Sys2Proof.Machine

/-! Bits and numbers. -/

@[simp] theorem msbBits_length (w v : Nat) : (msbBits w v).length = w := by
  induction w with
  | zero => rfl
  | succ w ih => rw [msbBits, List.length_cons, ih]

theorem msbBits_getElem? (v : Nat) {w i : Nat} (h : i < w) : (msbBits w v)[i]? = some (v.testBit (w - 1 - i)) := by
  induction w generalizing i with
  | zero => omega
  | succ w ih =>
    cases i with
    | zero => rfl
    | succ i =>
      rw [msbBits, List.getElem?_cons_succ, ih (by omega)]
      congr 2
      omega

theorem ofMsbBits_msbBits (w acc v : Nat) : ofMsbBits acc (msbBits w v) = acc * 2 ^ w + v % 2 ^ w := by
  induction w generalizing acc with
  | zero => simp [msbBits, ofMsbBits, Nat.mod_one]
  | succ w ih =>
    rw [msbBits, ofMsbBits, ih, Nat.toNat_testBit, Nat.pow_succ, Nat.mod_mul]
    ring

/-- The number that is continued stands above the bits. -/
theorem ofMsbBits_shiftRight (acc : Nat) (bits : List Bool) : ofMsbBits acc bits >>> bits.length = acc := by
  induction bits generalizing acc with
  | nil => rfl
  | cons b bits ih =>
    rw [ofMsbBits, List.length_cons, Nat.shiftRight_add, ih, Nat.shiftRight_eq_div_pow]
    have hb := b.toNat_le
    omega

theorem ofMsbBits_lt (bits : List Bool) : ofMsbBits 0 bits < 2 ^ bits.length := by
  have h := ofMsbBits_shiftRight 0 bits
  rw [Nat.shiftRight_eq_div_pow] at h
  exact Nat.lt_of_div_eq_zero (Nat.two_pow_pos _) h

theorem msbBits_ofMsbBits (acc : Nat) (bits : List Bool) : msbBits bits.length (ofMsbBits acc bits) = bits := by
  induction bits generalizing acc with
  | nil => rfl
  | cons b bits ih =>
    have hfirst : (ofMsbBits (2 * acc + b.toNat) bits).testBit bits.length = b := by
      rw [← Nat.add_zero bits.length, ← Nat.testBit_shiftRight, ofMsbBits_shiftRight]
      cases b <;> simp [Nat.testBit_zero]
    rw [List.length_cons, msbBits, ofMsbBits, hfirst, ih]

/-! Bits and bytes (R181). -/

theorem bitsOf_cons (b : Byte) (bs : List Byte) : bitsOf (b :: bs) = msbBits 8 b.toNat ++ bitsOf bs := rfl

@[simp] theorem bitsOf_length (bs : List Byte) : (bitsOf bs).length = 8 * bs.length := by
  induction bs with
  | nil => rfl
  | cons b bs ih =>
    rw [bitsOf_cons, List.length_append, msbBits_length, ih, List.length_cons]
    omega

/-- Bit `i` of the stream is bit `7 − i mod 8` of byte `i / 8`. -/
theorem bitsOf_getElem? {bs : List Byte} {i : Nat} (h : i / 8 < bs.length) :
    (bitsOf bs)[i]? = some (bs[i / 8].getLsbD (7 - i % 8)) := by
  induction bs generalizing i with
  | nil => simp at h
  | cons b bs ih =>
    rw [bitsOf_cons]
    rcases Nat.lt_or_ge i 8 with hi | hi
    · have hbyte : i / 8 = 0 := by omega
      rw [List.getElem?_append_left (by simpa using hi), msbBits_getElem? _ hi, Nat.mod_eq_of_lt hi]
      simp only [hbyte, List.getElem_cons_zero]
      rfl
    · obtain ⟨j, rfl⟩ := Nat.exists_eq_add_of_le' hi
      have hbyte : (j + 8) / 8 = j / 8 + 1 := by omega
      rw [List.getElem?_append_right (by simp), msbBits_length, Nat.add_sub_cancel, Nat.add_mod_right,
        ih (by simp only [List.length_cons] at h; omega)]
      simp only [hbyte, List.getElem_cons_succ]

/-- Eight bits survive being made a byte. -/
theorem msbBits_byte {bits : List Bool} (h : bits.length = 8) :
    msbBits 8 (BitVec.ofNat 8 (ofMsbBits 0 bits)).toNat = bits := by
  have hlt := ofMsbBits_lt bits
  rw [BitVec.toNat_ofNat, Nat.mod_eq_of_lt (h ▸ hlt), ← h, msbBits_ofMsbBits]

theorem bitsOf_packBytes {L : Nat} {bits : List Bool} (h : bits.length = 8 * L) : bitsOf (packBytes L bits) = bits := by
  induction L generalizing bits with
  | zero => exact (List.length_eq_zero_iff.mp h).symm
  | succ L ih =>
    rw [packBytes, bitsOf_cons, msbBits_byte (by rw [List.length_take]; omega), ih (by rw [List.length_drop]; omega),
      List.take_append_drop]

theorem packBytes_bitsOf (bs : List Byte) : packBytes bs.length (bitsOf bs) = bs := by
  induction bs with
  | nil => rfl
  | cons b bs ih =>
    have hbyte : BitVec.ofNat 8 (ofMsbBits 0 (msbBits 8 b.toNat)) = b := by
      rw [ofMsbBits_msbBits, Nat.zero_mul, Nat.zero_add, Nat.mod_eq_of_lt b.isLt, BitVec.ofNat_toNat, BitVec.setWidth_eq]
    rw [List.length_cons, packBytes, bitsOf_cons, List.take_left' (msbBits_length _ _), List.drop_left' (msbBits_length _ _),
      hbyte, ih]

/-! The fields of a code (R180). -/

/-- A sign bit, a low field, and a unary field that stands for `hi`, in the order of a code. -/
def codeFields (p : Params) (sg : Bool) (low : List Bool) (hi : Nat) : List Bool :=
  sg :: (low ++ List.replicate hi p.runBit ++ [!p.runBit])

/-- The magnitude that a low field and a unary field stand for together. -/
def fieldsMagnitude (p : Params) (low : List Bool) (hi : Nat) : Nat := hi * 2 ^ p.lowBits + ofMsbBits 0 low

/-- The integer that the fields stand for; for a zero magnitude the sign does not show. -/
def fieldsValue (p : Params) (sg : Bool) (low : List Bool) (hi : Nat) : Int :=
  if sg then -(fieldsMagnitude p low hi : Int) else fieldsMagnitude p low hi

variable {p : Params}

theorem code_eq_codeFields (p : Params) (c : Int) :
    code p c = codeFields p (decide (c < 0)) (msbBits p.lowBits (c.natAbs % 2 ^ p.lowBits)) (c.natAbs / 2 ^ p.lowBits) := rfl

theorem code_length (p : Params) (c : Int) : (code p c).length = codeLen p c := by
  simp only [code, codeLen, List.length_cons, List.length_append, msbBits_length, List.length_replicate, List.length_nil]
  omega

/-! The bits of the fields, by their place. -/

theorem codeFields_getElem?_low (sg : Bool) {low : List Bool} {i : Nat} (hi : Nat) (h : i < low.length) :
    (codeFields p sg low hi)[1 + i]? = low[i]? := by
  rw [codeFields, Nat.add_comm 1 i, List.getElem?_cons_succ, List.append_assoc, List.getElem?_append_left h]

theorem codeFields_getElem?_run (sg : Bool) {low : List Bool} {w hi i : Nat} (hlow : low.length = w) (h : i < hi) :
    (codeFields p sg low hi)[1 + w + i]? = some p.runBit := by
  rw [codeFields, Nat.add_assoc, Nat.add_comm 1, List.getElem?_cons_succ, List.append_assoc, ← hlow,
    List.getElem?_append_right (Nat.le_add_right ..), Nat.add_sub_cancel_left,
    List.getElem?_append_left (by rwa [List.length_replicate]), List.getElem?_replicate_of_lt h]

theorem codeFields_getElem?_last (sg : Bool) {low : List Bool} {w : Nat} (hlow : low.length = w) (hi : Nat) :
    (codeFields p sg low hi)[1 + w + hi]? = some (!p.runBit) := by
  rw [codeFields, Nat.add_assoc, Nat.add_comm 1, List.getElem?_cons_succ, ← hlow]
  simp

/-- The fields of the code of `c` stand for `|c|`. -/
theorem fieldsMagnitude_code (p : Params) (c : Int) :
    fieldsMagnitude p (msbBits p.lowBits (c.natAbs % 2 ^ p.lowBits)) (c.natAbs / 2 ^ p.lowBits) = c.natAbs := by
  rw [fieldsMagnitude, ofMsbBits_msbBits, Nat.zero_mul, Nat.zero_add, Nat.mod_mod, Nat.div_add_mod']

/-- The fields of the code of `c` stand for `c`. -/
theorem fieldsValue_code (p : Params) (c : Int) : fieldsValue p (decide (c < 0))
    (msbBits p.lowBits (c.natAbs % 2 ^ p.lowBits)) (c.natAbs / 2 ^ p.lowBits) = c := by
  rw [fieldsValue, fieldsMagnitude_code, Int.natCast_natAbs]
  rcases lt_or_ge c 0 with hc | hc
  · rw [if_pos (decide_eq_true hc), abs_of_neg hc, neg_neg]
  · rw [if_neg (by simpa using hc), abs_of_nonneg hc]

theorem natAbs_fieldsValue (sg : Bool) (low : List Bool) (hi : Nat) :
    (fieldsValue p sg low hi).natAbs = fieldsMagnitude p low hi := by
  cases sg <;> simp [fieldsValue]

/-- The sign shows unless the fields are those of a negative zero. -/
theorem decide_fieldsValue_neg {sg : Bool} {low : List Bool} {hi : Nat} (h : (sg && fieldsMagnitude p low hi == 0) = false) :
    decide (fieldsValue p sg low hi < 0) = sg := by
  cases sg with
  | false => simp [fieldsValue]
  | true =>
    have hpos : fieldsMagnitude p low hi ≠ 0 := by simpa using h
    simp only [fieldsValue, if_true, decide_eq_true_eq]
    omega

/-- Fields of the right width, other than those of a negative zero, are the code of the integer they stand for. -/
theorem code_fieldsValue {sg : Bool} {low : List Bool} {hi : Nat} (hlow : low.length = p.lowBits)
    (hzero : (sg && fieldsMagnitude p low hi == 0) = false) : code p (fieldsValue p sg low hi) = codeFields p sg low hi := by
  have hlt : ofMsbBits 0 low < 2 ^ p.lowBits := hlow ▸ ofMsbBits_lt low
  have hdiv : fieldsMagnitude p low hi / 2 ^ p.lowBits = hi := by
    rw [fieldsMagnitude, Nat.add_comm, Nat.add_mul_div_right _ _ (Nat.two_pow_pos _), Nat.div_eq_of_lt hlt, Nat.zero_add]
  have hmod : fieldsMagnitude p low hi % 2 ^ p.lowBits = ofMsbBits 0 low := by
    rw [fieldsMagnitude, Nat.mul_add_mod_self_right, Nat.mod_eq_of_lt hlt]
  rw [code_eq_codeFields, decide_fieldsValue_neg hzero, natAbs_fieldsValue, hdiv, hmod, ← hlow, msbBits_ofMsbBits]

/-! Reading codes back (R185). -/

theorem readRun_replicate_append (run : Bool) (hi : Nat) (rest : List Bool) :
    readRun run (List.replicate hi run ++ (!run) :: rest) = some (hi, rest) := by
  induction hi with
  | zero => simp [readRun]
  | succ hi ih => simp [List.replicate_succ, readRun, ih]

/-- What a unary run was read from. -/
theorem eq_of_readRun {run : Bool} {bits rest : List Bool} {hi : Nat} (h : readRun run bits = some (hi, rest)) :
    bits = List.replicate hi run ++ (!run) :: rest := by
  induction bits generalizing hi with
  | nil => simp [readRun] at h
  | cons b bits ih =>
    rw [readRun] at h
    split at h
    · next hb =>
      simp only [Option.map_eq_some_iff, Prod.mk.injEq, Prod.exists] at h
      obtain ⟨hi', rest', hread, rfl, rfl⟩ := h
      rw [ih hread, hb, List.replicate_succ, List.cons_append]
    · next hb =>
      cases h
      rw [Bool.eq_not.mpr hb, List.replicate_zero, List.nil_append]

theorem codeFields_append (sg : Bool) (low : List Bool) (hi : Nat) (rest : List Bool) :
    codeFields p sg low hi ++ rest = sg :: (low ++ (List.replicate hi p.runBit ++ (!p.runBit) :: rest)) := by
  simp [codeFields]

theorem readCoeff_codeFields_append {sg : Bool} {low : List Bool} (hi : Nat) (rest : List Bool)
    (hlow : low.length = p.lowBits) : readCoeff p (codeFields p sg low hi ++ rest) =
      if sg && fieldsMagnitude p low hi == 0 then none else some (fieldsValue p sg low hi, rest) := by
  rw [codeFields_append, readCoeff, if_neg (by rw [List.length_append]; omega), List.take_left' hlow, List.drop_left' hlow,
    readRun_replicate_append]
  rfl

/-- Bits that start with a coefficient start with fields of the right width. -/
theorem starts_with_fields_of_readCoeff {bits : List Bool} {r : Int × List Bool} (h : readCoeff p bits = some r) :
    ∃ sg low hi rest, low.length = p.lowBits ∧ bits = codeFields p sg low hi ++ rest := by
  cases bits with
  | nil => simp [readCoeff] at h
  | cons sg tail =>
    rw [readCoeff] at h
    split at h
    · cases h
    · next hlength =>
      split at h
      · cases h
      · next hi rest hread =>
        refine ⟨sg, tail.take p.lowBits, hi, rest, by rw [List.length_take]; omega, ?_⟩
        rw [codeFields_append, ← eq_of_readRun hread, List.take_append_drop]

/-- A coefficient is read exactly from its code, and the bits after the code are left. -/
theorem readCoeff_eq_some_iff {bits rest : List Bool} {c : Int} :
    readCoeff p bits = some (c, rest) ↔ bits = code p c ++ rest := by
  constructor
  · intro h
    obtain ⟨sg, low, hi, rest', hlow, rfl⟩ := starts_with_fields_of_readCoeff h
    rw [readCoeff_codeFields_append hi rest' hlow] at h
    split at h
    · cases h
    · next hzero =>
      cases h
      rw [code_fieldsValue hlow (Bool.eq_false_iff.mpr hzero)]
  · rintro rfl
    rw [code_eq_codeFields, readCoeff_codeFields_append _ _ (msbBits_length ..), fieldsMagnitude_code]
    have hzero : (decide (c < 0) && c.natAbs == 0) = false := by
      rw [Bool.and_eq_false_imp, decide_eq_true_eq, beq_eq_false_iff_ne]
      omega
    rw [hzero, fieldsValue_code]
    rfl

/-- `n` coefficients are read exactly from their codes in order. -/
theorem readCoeffs_eq_some_iff {n : Nat} {bits rest : List Bool} {cs : List Int} :
    readCoeffs p n bits = some (cs, rest) ↔ cs.length = n ∧ bits = cs.flatMap (code p) ++ rest := by
  induction n generalizing bits cs with
  | zero =>
    rw [readCoeffs, List.length_eq_zero_iff]
    constructor
    · intro h
      cases h
      exact ⟨rfl, rfl⟩
    · rintro ⟨rfl, rfl⟩
      rfl
  | succ n ih =>
    rw [readCoeffs]
    constructor
    · intro h
      split at h
      · cases h
      · next c bits' hread =>
        simp only [Option.map_eq_some_iff, Prod.mk.injEq, Prod.exists] at h
        obtain ⟨cs', rest', hrest, rfl, rfl⟩ := h
        obtain ⟨hlength, rfl⟩ := ih.mp hrest
        rw [readCoeff_eq_some_iff.mp hread, List.length_cons, hlength, List.flatMap_cons, List.append_assoc]
        exact ⟨rfl, rfl⟩
    · rintro ⟨hlength, rfl⟩
      obtain ⟨c, cs', rfl⟩ := List.exists_cons_of_length_eq_add_one hlength
      have hread := readCoeff_eq_some_iff.mpr (List.append_assoc (code p c) (cs'.flatMap (code p)) rest)
      rw [List.flatMap_cons, hread]
      simp only [ih.mpr ⟨Nat.succ.inj hlength, rfl⟩, Option.map_some]

/-! The two functions. -/

theorem sum_map_codeLen (p : Params) (cs : List Int) : (cs.map (codeLen p)).sum = (cs.flatMap (code p)).length := by
  simp only [List.length_flatMap, code_length]

theorem compress_eq_none_iff {cs : List Int} {L : Nat} : compress p cs L = none ↔ 8 * L < (cs.flatMap (code p)).length := by
  simp [compress, sum_map_codeLen]

/-- `compress` gives the string of `L` bytes whose bits are the codes and then zeros (R183). -/
theorem compress_eq_some_iff {cs : List Int} {L : Nat} {bs : List Byte} : compress p cs L = some bs ↔
    bs.length = L ∧
      bitsOf bs = cs.flatMap (code p) ++ List.replicate (8 * L - (cs.flatMap (code p)).length) false := by
  simp only [compress, sum_map_codeLen, Option.ite_none_left_eq_some, Option.some.injEq, not_lt]
  constructor
  · rintro ⟨hfits, rfl⟩
    refine ⟨packBytes_length L _, bitsOf_packBytes ?_⟩
    rw [List.length_append, List.length_replicate]
    omega
  · rintro ⟨rfl, hbits⟩
    have hlength := congrArg List.length hbits
    rw [bitsOf_length, List.length_append, List.length_replicate] at hlength
    exact ⟨by omega, by rw [← hbits, packBytes_bitsOf]⟩

/-- `decompress`'s test of the padding passes exactly for zero bits. -/
theorem any_id_eq_false_iff {bits : List Bool} : bits.any id = false ↔ bits = List.replicate bits.length false := by
  simp [List.eq_replicate_iff]

/-- `decompress` gives the list of `n` integers that compresses to the string (R185, R186). -/
theorem decompress_eq_some_iff {bs : List Byte} {n : Nat} {cs : List Int} :
    decompress p bs n = some cs ↔ cs.length = n ∧ compress p cs bs.length = some bs := by
  rw [compress_eq_some_iff, decompress]
  constructor
  · intro h
    split at h
    · cases h
    · next cs' padding hread =>
      simp only [Option.ite_none_left_eq_some, Bool.not_eq_true, any_id_eq_false_iff, Option.some.injEq] at h
      obtain ⟨hpadding, rfl⟩ := h
      obtain ⟨hn, hbits⟩ := readCoeffs_eq_some_iff.mp hread
      have hlength := congrArg List.length hbits
      rw [bitsOf_length, List.length_append] at hlength
      refine ⟨hn, rfl, ?_⟩
      rw [hlength, Nat.add_sub_cancel_left, ← hpadding]
      exact hbits
  · rintro ⟨hn, -, hbits⟩
    rw [readCoeffs_eq_some_iff.mpr ⟨hn, hbits⟩]
    simp

end Sys2Proof.Machine

namespace Sys2Proof.Safety

open Sys2Proof.Machine

/-- Settles O53: the code is its fields in order, and `compress` compares the length of all codes with `8·L`. -/
theorem compressFitsOrOverflows : Obligations.CompressFitsOrOverflows := by
  refine fun p cs L => ⟨fun c => ⟨code_length p c, rfl, fun i hi => ?_, fun i hi => ?_, ?_⟩, compress_eq_none_iff,
    fun bs => compress_eq_some_iff.mp⟩
  · rw [code_eq_codeFields, codeFields_getElem?_low _ _ (by rwa [msbBits_length]), msbBits_getElem? _ hi]
  · exact codeFields_getElem?_run _ (msbBits_length ..) hi
  · exact codeFields_getElem?_last _ (msbBits_length ..) _

/-- Settles O54: `decompress` answers exactly the list of its length that compresses to the string. -/
theorem codecIsCanonical : Obligations.CodecIsCanonical := by
  refine ⟨fun p cs L bs h => ?_, fun p bs n cs => decompress_eq_some_iff.mp⟩
  rw [decompress_eq_some_iff, compress_length h]
  exact ⟨rfl, h⟩

end Sys2Proof.Safety
end

section
/-! The codec commands (R184, R187). -/

namespace Sys2Proof.Machine

/-! The arms of `exec`. -/

theorem exec_compress (rs1 : Reg) (imm : BitVec 12) (s : State) : exec (.compress rs1 imm) s = execCompress rs1 imm s := rfl

theorem exec_decompress (rd : Reg) (imm : BitVec 12) (s : State) : exec (.decompress rd imm) s = execDecompress rd imm s := rfl

/-! Their parts. -/

theorem State.compressCommit_overflow (s : State) (imm : BitVec 12) : s.compressCommit imm none = s.setRes .overflow := rfl

theorem State.compressCommit_fits (s : State) (imm : BitVec 12) (bs : List Byte) :
    s.compressCommit imm (some bs) = ((s.store (bbAddr 0) bs).setBlen imm).setRes .ok := rfl

theorem State.decompressCommit_malformed (s : State) (rd : Reg) : s.decompressCommit rd none = s.setRes .malformed := rfl

theorem State.decompressCommit_list (s : State) (rd : Reg) (cs : List Int) :
    s.decompressCommit rd (some cs) = s.commitLanes rd .z (cs.map zLane) := rfl

theorem decompressCheck_beyond {imm blen : BitVec 12} (h : blen.toNat < imm.toNat) :
    decompressCheck imm blen = some .invalidParam := if_pos h

theorem decompressCheck_within {imm blen : BitVec 12} (h : imm.toNat ≤ blen.toNat) : decompressCheck imm blen = none :=
  if_neg h.not_gt

/-- The active lanes of a `Z` register as a function of their index. -/
theorem State.zs_eq_map_range (s : State) (r : Reg) : s.zs r = (List.range s.n).map fun j => zOf (s.lane r j) := by
  simp only [State.zs, State.lanes, List.map_map, Function.comp_def]

/-- Byte `k` of a run stored in the window of `BB`. -/
theorem State.store_bb_byteAt (s : State) {bs : List Byte} {k : Nat} (h : k < bs.length) :
    (s.store (bbAddr 0) bs).byteAt (bbAddr k) = bs[k] := s.store_byteAt_inside (bbAddr 0) k bs h

/-- R181: where bit `i` of a compressed list stands, and what it is. -/
theorem getLsbD_of_compress {p : Params} {cs : List Int} {bs : List Byte} {i : Nat} (h : compress p cs bs.length = some bs)
    (hi : i / 8 < bs.length) : bs[i / 8].getLsbD (7 - i % 8) = (cs.flatMap (code p)).getD i false := by
  obtain ⟨-, hbits⟩ := compress_eq_some_iff.mp h
  have hget := bitsOf_getElem? hi
  rw [hbits] at hget
  rcases lt_or_ge i (cs.flatMap (code p)).length with hcode | hpad
  · rw [List.getElem?_append_left hcode] at hget
    rw [List.getD_eq_getElem?_getD, hget, Option.getD_some]
  · rw [List.getElem?_append_right hpad, List.getElem?_replicate_of_lt (by omega)] at hget
    rw [List.getD_eq_default _ _ hpad, ← Option.some.inj hget]

end Sys2Proof.Machine

namespace Sys2Proof.Safety

open Sys2Proof.Machine

/-- Settles O43: past the checks of the procedure the commit stores what `compress` gives for the active lanes. -/
theorem compressStoresBitstream : Obligations.CompressStoresBitstream := by
  intro s rs1 imm hfault
  refine ⟨rfl, configAndTagFaults_of_exec (exec_compress rs1 imm s) hfault rfl, fun hlogn htag bits hbits => ?_⟩
  rw [← List.flatMap_map, ← s.zs_eq_map_range] at hbits
  subst hbits
  have hexec := exec_commits (exec_compress rs1 imm s) hfault rfl
    ((firstFault_of_admitted hlogn (by decide) (mem_admitted_single htag)).trans rfl)
  rw [Config.prau_params] at hexec
  refine ⟨fun hover => ?_, fun hfits => ?_⟩
  · rw [compress_eq_none_iff.mpr hover, State.compressCommit_overflow] at hexec
    exact hexec
  · obtain ⟨bs, hbs⟩ := Option.ne_none_iff_exists'.mp (mt compress_eq_none_iff.mp hfits.not_gt)
    have hlength := compress_length hbs
    rw [hbs, State.compressCommit_fits] at hexec
    rw [← hlength] at hbs ⊢
    refine ⟨_, hexec, ⟨_, rfl⟩, fun i hi => ?_, fun a ha => s.store_byteAt_outside _ _ _ ha⟩
    have hbyte : i / 8 < bs.length := by omega
    rw [State.setRes_byteAt, State.setBlen_byteAt, s.store_bb_byteAt hbyte, getLsbD_of_compress hbs hbyte]

/-- Settles O44: `decompress` answers a list exactly when that list compresses to the bytes. -/
theorem decompressInvertsCompress : Obligations.DecompressInvertsCompress := by
  intro s rd imm hfault
  refine ⟨rfl, fun hbad => ?_, fun hlogn hblen => ?_⟩
  · refine faults_of_firstFault (exec_decompress rd imm s) hfault rfl ?_
    by_cases hlogn : s.logn = 0#4
    · rw [needsN_zero hlogn, firstFault_cons_some]
    · rw [needsN_configured hlogn, firstFault_cons_none, firstFault_singleton,
        decompressCheck_beyond (hbad.resolve_left hlogn)]
  · have hexec := exec_commits (exec_decompress rd imm s) hfault rfl
      (by rw [needsN_configured hlogn, firstFault_cons_none, firstFault_singleton, decompressCheck_within hblen])
    rw [Config.prau_params] at hexec
    have hdecompress : ∀ p : List Int, decompress Config.hw (s.bytesAt (bbAddr 0) imm.toNat) s.n = some p ↔
        p.length = s.n ∧ compress Config.hw p imm.toNat = some (s.bytesAt (bbAddr 0) imm.toNat) := fun p => by
      rw [decompress_eq_some_iff, State.bytesAt_length]
    refine ⟨fun p hn hp => ?_, fun hnone => ?_⟩
    · rw [(hdecompress p).mpr ⟨hn, hp⟩, State.decompressCommit_list] at hexec
      refine ⟨_, hexec, writesLanes_commitLanes (by rw [List.length_map, hn]) fun j hj => ?_⟩
      rw [List.getElem_map, List.getD_eq_getElem]
    · rw [Option.eq_none_iff_forall_ne_some.mpr fun p hp => hnone ⟨p, (hdecompress p).mp hp⟩,
        State.decompressCommit_malformed] at hexec
      exact hexec

end Sys2Proof.Safety
end

section
/-! Precise faults (R200, R214): an unfaulted command completes or ends in fault entry, and the fault of a draw comes after bytes
taken from the RNG stream. -/

namespace Sys2Proof.Machine

/-- A loop that accepts has taken at least one byte (R162, R164). -/
theorem lt_of_leafLoop_accepted {att cur : Byte → LeafStep} {stream : Nat → Byte} {fuel rej pos rej' pos' : Nat}
    {taken : List Byte} {z : Int} (h : leafLoop att stream fuel cur taken rej pos = .accepted z rej' pos') : pos < pos' := by
  have hpos : (leafLoop att stream fuel cur taken rej pos).pos = pos' := by rw [h, LeafOutcome.pos]
  cases fuel with
  | zero => cases h
  | succ fuel =>
    rw [← hpos]
    cases hb : cur (stream pos) with
    | accept z =>
      rw [leafLoop_accept hb]
      exact pos.lt_succ_self
    | reject =>
      rw [leafLoop_reject hb]
      exact le_leafLoop_pos ..
    | more next =>
      rw [leafLoop_more hb]
      exact le_leafLoop_pos ..

/-- A draw that goes on or ends raises no fault, or it ends in `RANGE` with the stream further on (R163, R208). -/
theorem State.leafAdvance_fault (s : State) (cfg : Configuration) (run : LeafRun) :
    (s.leafAdvance cfg run).fault = s.fault ∨ ∃ pos, s.rngPos < pos ∧ s.leafAdvance cfg run =
      { s with fault := some .range, fcmd := encode .samplez, leaf := none, rngPos := pos } := by
  rw [State.leafAdvance]
  cases hloop : leafLoop (s.attempt cfg) Config.rngByte (Config.rngDelivers s.now) (awaiting (s.attempt cfg) run.taken)
    run.taken run.rej s.rngPos with
  | pending rej taken pos => exact .inl rfl
  | accepted z rej pos =>
    rw [State.leafSettle_accepted]
    split
    · exact .inl rfl
    · exact .inr ⟨pos, lt_of_leafLoop_accepted hloop, rfl⟩

end Sys2Proof.Machine

namespace Sys2Proof.Safety

open Sys2Proof.Machine

/-- Settles O8: of the shapes in which a command can end, only fault entry and a draw raise a fault. -/
theorem faultsArePrecise : Obligations.FaultsArePrecise := by
  intro i s hleaf
  obtain ⟨t, ht⟩ := exec_next i s
  refine ⟨t, ht, fun hfault => ?_, fun hfault => ?_⟩
  · rw [exec_dropped hfault] at ht
    cases ht
    rfl
  · cases exec_effect ht with
    | dropped hfaulted => exact absurd hfault hfaulted
    | faulted f => exact .inr (.inl ⟨f, rfl⟩)
    | sampled hi =>
      subst hi
      rcases s.leafAdvance_fault Config.prau ⟨0, []⟩ with hsame | ⟨pos, hpos, hrange⟩
      · exact .inl (hsame.trans hfault)
      · exact .inr (.inr ⟨rfl, pos, hpos, by rw [hrange, ← hleaf]⟩)
    | _ => exact .inl hfault

end Sys2Proof.Safety
end

section
/-! The faulted machine (R60, R90, R215): short of a reset, a move of the host changes the word on the bus and nothing else. -/

namespace Sys2Proof.Machine

/-- A write to `CTRL` with bit 0 clear does nothing (R29). -/
theorem State.writeCtrl_of_bit_clear (s : State) {v : Word} (h : v.getLsbD 0 = false) : s.writeCtrl v = s := by
  rw [State.writeCtrl, if_neg (Bool.eq_false_iff.mp h)]

/-- In a faulted machine a write that is not the reset of `CTRL` is dropped. -/
theorem hostWrite_faulted (cfg : Configuration) {off : Offset} {v : Word} {s : State} (hfault : s.fault ≠ none)
    (hctrl : off = ctrlOffset → v.getLsbD 0 = false) : hostWrite cfg off v s = .next s := by
  by_cases hoff : off = ctrlOffset
  · rw [hostWrite, if_neg (hoff ▸ by decide), if_pos hoff, s.writeCtrl_of_bit_clear (hctrl hoff)]
  · exact hostWrite_dropped cfg v hfault hoff

/-- In a faulted machine a move that is no reset changes the word on the bus at most. -/
theorem perform_faulted (cfg : Configuration) {op : HostOp} {s t : State} (hfault : s.fault ≠ none) (hrst : op ≠ .rst)
    (hctrl : ∀ v, op = .write ctrlOffset v → v.getLsbD 0 = false) (h : perform cfg op s = .next t) :
    ∃ w, t = s.setRdata w := by
  cases op with
  | read off =>
    simp only [perform] at h
    split at h <;> cases h
    exact ⟨_, rfl⟩
  | write off v =>
    rw [perform, hostWrite_faulted cfg hfault fun hoff => hctrl v (hoff ▸ rfl)] at h
    split at h <;> cases h
    exact ⟨s.rdata, rfl⟩
  | rst => exact absurd rfl hrst
  | idle =>
    cases h
    exact ⟨s.rdata, rfl⟩

end Sys2Proof.Machine

namespace Sys2Proof.Safety

open Sys2Proof.Machine

/-- Settles O47: the invariant leaves no draw to go on with, so the step makes the host's next move, if there is one. -/
theorem faultedMachineIsFrozen : Obligations.FaultedMachineIsFrozen := by
  intro s t hinv hfault hreset hstep
  have hleaf : s.leaf = none := by
    by_contra hrun
    exact hfault (hinv.running (Option.isSome_iff_ne_none.mpr hrun))
  rw [step_eq_stepIn] at hstep
  cases hinputs : s.inputs with
  | nil =>
    rw [stepIn_idle _ hleaf hinputs] at hstep
    cases hstep
    rw [List.tail_nil, ← hinputs]
    rfl
  | cons op rest =>
    have hrst : op ≠ .rst := fun hop => hreset ⟨rest, .inl (hop ▸ hinputs)⟩
    have hctrl : ∀ v, op = .write ctrlOffset v → v.getLsbD 0 = false := fun v hop => by
      by_contra hbit
      exact hreset ⟨rest, .inr ⟨v, Bool.eq_true_of_not_eq_false hbit, hleaf, hop ▸ hinputs⟩⟩
    rw [stepIn_move _ hleaf hinputs] at hstep
    obtain ⟨u, hu, rfl⟩ := ticked_next hstep
    obtain ⟨w, rfl⟩ := perform_faulted (s := (s.setInputs rest).setRdata none) _ hfault hrst hctrl hu
    rfl

end Sys2Proof.Safety
end

section
/-! What a reset leaves (R41, R231): every register is empty and no byte of storage is listed. -/

namespace Sys2Proof.Machine

theorem State.applyReset_getTag (s : State) (r : Reg) : s.applyReset.tags[r] = .e := by
  rw [State.applyReset_tags]
  exact Vector.getElem_replicate r.isLt

/-- Where no byte is listed, each reads as the free value of an unwritten one at the current step (R62). -/
theorem State.byteAt_of_mem_nil {s : State} (h : s.mem = []) (a : Nat) : s.byteAt a = Config.unwritten s.now a := by
  rw [State.byteAt, h, Memory.lookup, Option.getD_none]

end Sys2Proof.Machine

namespace Sys2Proof.Safety

open Sys2Proof.Machine

/-- Settles O15: `rst` is taken before a running draw goes on, so from any state the step is the reset and the tick of the
counter, and each clause reads a field of that state. -/
theorem resetClearsState : Obligations.ResetClearsState := by
  intro s rest hinputs
  have hstep : step s = .next (s.setInputs rest).applyReset.tick :=
    (step_eq_stepIn s).trans (stepIn_reset Config.prau hinputs)
  exact ⟨_, hstep, (s.setInputs rest).applyReset_getTag, rfl, rfl, rfl, rfl, rfl, rfl, rfl, rfl, rfl, rfl, rfl, rfl, rfl,
    State.byteAt_of_mem_nil rfl⟩

end Sys2Proof.Safety
end

section
/-! The words that the tables T3.1 and T3.3 list. -/

namespace Sys2Proof

/-- A word assembled from a well-formed command decodes to that command (R81). -/
theorem decode_of_encode_eq {i : Instr} {c : Word} (hi : WellFormed i = true) (hc : encode i = c) : decode c = .ok i :=
  hc ▸ decode_encode hi

end Sys2Proof

namespace Sys2Proof.Safety

/-- Settles O1: each legal word is assembled from its well-formed command, so it decodes to it. The first illegal word has the `op`
number of `NOP` and is not 0 (O19); the others stop at the tag code, at the field `rs2`, and at the `op` number. -/
theorem listedWordsDecode : Obligations.ListedWordsDecode := by
  obtain ⟨-, -, -, hnop⟩ := nopSetsResultOk
  refine ⟨decode_of_encode_eq rfl rfl, decode_of_encode_eq rfl rfl, decode_of_encode_eq rfl rfl, decode_of_encode_eq rfl rfl,
    decode_of_encode_eq rfl rfl, decode_of_encode_eq rfl rfl, decode_of_encode_eq rfl rfl, decode_of_encode_eq rfl rfl,
    hnop _ (by decide) (by decide), ?tagCode, ?registerField, ?opNumber⟩
  case tagCode => decide
  case registerField => decide
  case opNumber => decide

end Sys2Proof.Safety
end
